-- ==== Sys2Proof/Word.lean ====
section
/-! DEFINITION. The widths of the Evrow L32: bytes of the window, 16-bit fields, 32-bit counts. -/

namespace Sys2Proof

/-- A byte of the register window or of the staging area (R162, R166). -/
abbrev Byte := BitVec 8

/-- A 16-bit field: a limit, a channel value, a delay in ticks, a sequence number. -/
abbrev Half := BitVec 16

/-- A 32-bit field: TIMESTAMP, an accumulator. -/
abbrev Word := BitVec 32

/-- A window address, A6 to A0 (R162). -/
abbrev Address := BitVec 7

end Sys2Proof
end

