-- ==== Sys2Proof/Syntax.lean ====
section
/-! DEFINITION. The commands of the block: one constructor for each row of spec/opcode_table.json, in the table's
order, with the operands the row needs. -/

namespace Sys2Proof

/-- The submitters whose records wait for the event queue (R65). The fourth, the command unit, submits the one
RESTART record, which the queue takes within RESTART (R80). -/
inductive Submitter where
  | engine
  | channelUnit
  | outputUnit
  deriving DecidableEq, Repr

/-- How far one command carries a work item that takes time (R38, R56): one step of it, or all that is left. -/
inductive Extent where
  /-- One step: the next event of the work item, after which other blocks' events may come. -/
  | advance
  /-- All the work item still has to do. -/
  | finish
  deriving DecidableEq, Repr

/-- The parts of the RESTART work item (R172, R173). -/
inductive RestartPart where
  /-- The engine's effect on the watch table and its own state (R60). -/
  | engine
  /-- The output unit's effect, with the withdrawals the engine has handed over (R107). -/
  | output
  /-- The channel unit's effect (R141). -/
  | channel
  /-- The sample port's effect (R154). -/
  | port
  /-- The interrupt unit's effect (R176). -/
  | interrupt
  /-- The RESTART record, the queue's effect (R80). -/
  | queue
  /-- The completion of the command (R173). -/
  | completion
  deriving DecidableEq, Repr

/-- How far one RESTART command carries the restart: to its end, or by one part. -/
inductive RestartExtent where
  | finish
  | part (p : RestartPart)
  deriving DecidableEq, Repr

/-- How far one TICK command carries a tick (R156, R159). -/
inductive TickExtent where
  /-- The interval ends and each of the three owners takes its tick at once. -/
  | whole
  /-- The interval ends and the tick is on its way to its owners. -/
  | interval
  /-- TIMESTAMP takes the tick that reached it first. -/
  | timestamp
  /-- The timer bank takes the tick that reached it first. -/
  | timerBank
  /-- The channel unit takes, for every channel, the tick that reached it first. -/
  | channelUnit
  deriving DecidableEq, Repr

/-- The seven summary bitmaps that have a read latch (R164). -/
inductive Bitmap where
  | pin
  | hold
  | demand
  | cut
  | tripped
  | armed
  | channelState
  deriving DecidableEq, Repr

/-- The commands: one constructor per row of spec/opcode_table.json. A row whose name is a command of CMD_OP is the
service of that command by its owner, with the arguments captured at the CMD_OP write (R39, R168). -/
inductive Instr where
  | readEntry
  | writeEntry
  | arm
  | disarm
  | release
  | releaseAll (x : Extent)
  | readChannel
  | writeChannel
  | enable
  | disable
  | readLine
  | writeLine
  | silence
  | override
  | resume
  | pop
  | flush
  | readAcc
  | writeAcc
  | clearPortCounts
  | restart (x : RestartExtent)
  | badOpcode (op : Byte)
  | cmdOpWriteLost (op : Byte)
  | evaluation (x : Extent)
  | captureStep
  | qualificationTimerExpiry (n : Fin 32)
  | qualificationExpiryTaken
  | shapingTimerExpiry (n : Fin 32)
  | shapingExpiryTaken
  | tickBy (x : TickExtent)
  | freshnessExpiry (c : Fin 16)
  | arrival
  | arrivalOutcome
  | frameStart
  | frameEnd
  | injTagWrite (v : Byte)
  | injValueLowWrite (v : Byte)
  | injValueHighWrite (v : Byte)
  | tbdivLowWrite (v : Byte)
  | tbdivHighWrite (v : Byte)
  | oeChange (v : Byte)
  | portEnChange (v : Byte)
  | watermarkWrite (v : Byte)
  | intFlagsClear (v : Byte)
  | intMaskWrite (v : Byte)
  | headLatchLoad
  | timestampLatchLoad
  | bitmapLatchLoad (b : Bitmap)
  | registerWrite (a : Address) (v : Byte)
  | recordSubmission (submitter : Submitter)
  | shutoffAssert
  | shutoffRelease
  | powerOnReset
  | powerOnResetEnd
  | sclkRisingEdge (sdat : Bool)
  | commandTaken (op : Byte)
  deriving DecidableEq, Repr

/-- The tick with no other event between its events: the whole of it (R159). -/
abbrev Instr.tick : Instr := .tickBy .whole

end Sys2Proof
end

