-- ==== Sys2Proof/Decode.lean ====
section
/-! DEFINITION. The opcodes of CMD_OP (Table 10-2), read and written; and what the opcode table's bits spell, which is
nothing: no row of spec/opcode_table.json gives any bits. -/

namespace Sys2Proof

/-- The twenty-one commands of CMD_OP (Table 10-2). -/
inductive Command where
  | readEntry
  | writeEntry
  | arm
  | disarm
  | release
  | releaseAll
  | readChannel
  | writeChannel
  | enable
  | disable
  | readLine
  | writeLine
  | silence
  | override
  | resume
  | pop
  | flush
  | readAcc
  | writeAcc
  | clearPortCounts
  | restart
  deriving DecidableEq, Repr

/-- The command an opcode names, `none` for an unknown opcode (Table 10-2, R170). -/
def decodeOpcode (op : Byte) : Option Command :=
  match op.toNat with
  | 0x01 => some .readEntry
  | 0x02 => some .writeEntry
  | 0x03 => some .arm
  | 0x04 => some .disarm
  | 0x05 => some .release
  | 0x06 => some .releaseAll
  | 0x10 => some .readChannel
  | 0x11 => some .writeChannel
  | 0x12 => some .enable
  | 0x13 => some .disable
  | 0x20 => some .readLine
  | 0x21 => some .writeLine
  | 0x22 => some .silence
  | 0x23 => some .override
  | 0x24 => some .resume
  | 0x30 => some .pop
  | 0x31 => some .flush
  | 0x40 => some .readAcc
  | 0x41 => some .writeAcc
  | 0x50 => some .clearPortCounts
  | 0x7F => some .restart
  | _ => none

/-- The opcode of a command (Table 10-2). -/
def encodeOpcode : Command → Byte
  | .readEntry => 0x01
  | .writeEntry => 0x02
  | .arm => 0x03
  | .disarm => 0x04
  | .release => 0x05
  | .releaseAll => 0x06
  | .readChannel => 0x10
  | .writeChannel => 0x11
  | .enable => 0x12
  | .disable => 0x13
  | .readLine => 0x20
  | .writeLine => 0x21
  | .silence => 0x22
  | .override => 0x23
  | .resume => 0x24
  | .pop => 0x30
  | .flush => 0x31
  | .readAcc => 0x40
  | .writeAcc => 0x41
  | .clearPortCounts => 0x50
  | .restart => 0x7F

/-- Whether the evaluation engine serves the command (Table 10-2, R34): the table commands. -/
def Command.isTable : Command → Bool
  | .readEntry | .writeEntry | .arm | .disarm | .release | .releaseAll | .enable | .disable | .restart => true
  | .readChannel | .writeChannel | .readLine | .writeLine | .silence | .override | .resume | .pop | .flush
  | .readAcc | .writeAcc | .clearPortCounts => false

/-- Whether the capture unit serves the command (Table 10-2, R110). -/
def Command.isCapture : Command → Bool
  | .readAcc | .writeAcc => true
  | .readEntry | .writeEntry | .arm | .disarm | .release | .releaseAll | .enable | .disable | .restart
  | .readChannel | .writeChannel | .readLine | .writeLine | .silence | .override | .resume | .pop | .flush
  | .clearPortCounts => false

/-- The command a word spells by the bits of spec/opcode_table.json. No row of the table gives any bits, so no word
spells a command (log 14). -/
def decodeTableWord (_nbits _w : Nat) : Option Instr :=
  none

end Sys2Proof
end

