-- ==== Sys2Proof/Machine/State.lean ====
section
/-! DEFINITION. The state of the Evrow L32 as plain data: every table, register, timer, counter, queue, latch and pin
the spec names, block by block, and its value right after power-on reset. -/

namespace Sys2Proof.Machine

/-- The block has no fault: the spec describes no event that stops the part (a refused command completes with a result
code, a bad frame is counted, a lost write sets CMD_LOST). No constructor, so no meaning can raise one. -/
inductive Fault where
  deriving DecidableEq, Repr

/-- Reasons for which exec gives no meaning. -/
inductive Refusal where
  /-- Raised only by an arm of exec that has no meaning yet; there is none. Safe: the run stops. -/
  | notModelled (mnemonic : String)
  deriving DecidableEq, Repr

/-! ## Watch table (chapter 1) -/

/-- Kind of condition (Table 1-1). -/
inductive Compare where
  | above
  | below
  | inside
  | outside
  deriving DecidableEq, Repr

/-- Side of the limit on which the hysteresis lies (Table 1-1). -/
inductive HystSide where
  | releaseSide
  | tripSide
  deriving DecidableEq, Repr

/-- What fault input means to an entry (Table 1-1, R29). -/
inductive FaultPolicy where
  | hold
  | trip
  | clear
  deriving DecidableEq, Repr

/-- Form of an entry's contribution (Table 1-1, R85 to R89). -/
inductive Shaping where
  | level
  | pulse
  | blink
  deriving DecidableEq, Repr

/-- Action on an accumulator (Table 6-1). -/
inductive CaptureAction where
  | set
  | excess
  | add
  | copy
  deriving DecidableEq, Repr

/-- Edges at which the capture action applies (Table 1-1, R16). -/
inductive CaptureEdge where
  | trip
  | clear
  | both
  deriving DecidableEq, Repr

/-- States of an entry (Table 3-1). -/
inductive EntryState where
  | disarmed
  | inhibited
  | normal
  | pendingTrip
  | tripped
  | pendingClear
  | held
  deriving DecidableEq, Repr

/-- A timer of the timer bank, in one of its three conditions (R40): unloaded, running with a count of 1 or more, or
expired with its claim waiting for the engine. -/
inductive Timer where
  | unloaded
  | running (count : Half)
  | expired
  deriving DecidableEq, Repr

/-- Configuration fields of an entry (Table 1-1). -/
structure EntryConfig where
  channel : Fin 16
  compare : Compare
  limit : Half
  band : Half
  hysteresis : Half
  hystSide : HystSide
  track : Option (Fin 32)
  trackOffset : Half
  onDelay : Half
  offDelay : Half
  latch : Bool
  startInhibit : Bool
  faultPolicy : FaultPolicy
  output : Option (Fin 16)
  shaping : Shaping
  shapeTicks : Half
  captureAcc : Option (Fin 8)
  captureAction : CaptureAction
  captureEdge : CaptureEdge
  captureConst : Half
  eventTrip : Bool
  eventClear : Bool
  severity : BitVec 2
  deriving DecidableEq, Repr

/-- One entry record (R1): configuration, and the runtime fields of Table 1-2. `qualVoid` and `shapeVoid` count the void
claims of its two timers that the engine has still to take (R42, log 11). The loss mark is the event queue's. -/
structure Entry where
  cfg : EntryConfig
  state : EntryState
  condition : Bool
  effLimit : Half
  tripCount : Half
  lastValue : Option Half
  qual : Timer
  qualVoid : Nat
  shape : Timer
  shapeVoid : Nat
  phase : Bool
  deriving DecidableEq, Repr

/-! ## Channels (chapter 7) -/

/-- Arrivals a channel accepts (Table 7-1). -/
inductive Source where
  | port
  | host
  | either
  deriving DecidableEq, Repr

/-- Number of corrected samples the averaging ring holds (Table 7-1). -/
inductive AvgLen where
  | one
  | two
  | four
  | eight
  deriving DecidableEq, Repr

/-- Status of a sample (R119). -/
inductive SampleStatus where
  | good
  | overHigh
  | overLow
  | fault
  deriving DecidableEq, Repr

/-- Quality of the last settled sample item (Table 7-2). -/
inductive Quality where
  | good
  | invalid
  deriving DecidableEq, Repr

/-- States of a channel (Table 7-3). -/
inductive ChannelState where
  | off
  | waiting
  | live
  | stale
  deriving DecidableEq, Repr

/-- An item of a pending slot (R119): a sample as it arrived, or a fault item, which holds nothing. -/
inductive Item where
  | sample (raw : Half) (status : SampleStatus)
  | fault
  deriving DecidableEq, Repr

/-- A freshness timer (R131): unloaded or running with a count of 1 or more. -/
inductive FreshTimer where
  | unloaded
  | running (count : Half)
  deriving DecidableEq, Repr

/-- Configuration of a channel (Table 7-1). -/
structure ChannelConfig where
  source : Source
  zeroOffset : Half
  avgLen : AvgLen
  freshWindow : Half
  faultSeverity : BitVec 2
  faultEvents : Bool
  overrangeAsLimit : Bool
  deriving DecidableEq, Repr

/-- One channel record (R118, R119). The ring holds its values oldest first. -/
structure Channel where
  cfg : ChannelConfig
  state : ChannelState
  quality : Quality
  lastRaw : Half
  lastStatus : SampleStatus
  value : Half
  ring : List Half
  slot : Option Item
  fresh : FreshTimer
  overruns : Byte
  arrivals : Byte
  deriving DecidableEq, Repr

/-! ## Evaluation engine (chapter 3) -/

/-- The input every bound entry of one evaluation receives (R20). -/
inductive EvalInput where
  | good (v : Half)
  | fault
  deriving DecidableEq, Repr

/-- The two timers of an entry (R34, R40, R86). -/
inductive TimerKind where
  | qualification
  | shaping
  deriving DecidableEq, Repr

/-- A claim whose taking and whose service are two events (R34): the expiry of one timer of one entry, or the table
command. The third kind, a channel item, is taken out of its slot at once (R37). -/
inductive Claim where
  | expiry (n : Fin 32) (k : TimerKind)
  | table
  deriving DecidableEq, Repr

/-- The engine: free, or busy with a work item that other events may come between (R34, R38, R56, R58, R172). -/
inductive Engine where
  | free
  /-- The claim has been taken, and its effect is still to come: other blocks' events may come first (R34, R58). -/
  | taken (c : Claim)
  /-- The item of channel `c` has been taken and is to be settled (R37 steps 1 and 2). -/
  | settling (c : Fin 16) (item : Item)
  /-- The bound entries of channel `c` from index `next` on are still to be handled, and then the evaluation is to end
  (R37 step 4). -/
  | handling (c : Fin 16) (input : EvalInput) (next : Nat)
  /-- A qualification expiry has been handled, and its CONFLICT and its own record are on their way to the queue: the
  work item is still to end (R65, R97, log 8). -/
  | ending
  /-- RELEASE_ALL: entries from index `next` on are still to be visited, `count` were released (R56). -/
  | releasing (next : Nat) (count : Nat)
  /-- RESTART: the engine's own part is done; the flags say which of the other blocks' parts are (R172). -/
  | restarting (outputDone channelDone portDone interruptDone recordTaken : Bool)
  deriving DecidableEq, Repr

/-! ## Output unit (chapter 5) -/

/-- Electrical level of a pin when it is active (Table 5-1). -/
inductive Polarity where
  | activeHigh
  | activeLow
  deriving DecidableEq, Repr

/-- Override of a line (Table 5-2). -/
inductive Override where
  | auto
  | forceOn
  | forceOff
  deriving DecidableEq, Repr

/-- One line record (R82, R83). Entry n contributes to the line while `contrib[n]` is set. -/
structure Line where
  polarity : Polarity
  cutMember : Bool
  conflictEvent : Bool
  conflictSeverity : BitVec 2
  contrib : Vector Bool 32
  demand : Bool
  override : Override
  silenced : Bool
  want : Bool
  hold : Bool
  blocked : Bool
  cut : Bool
  pinActive : Bool
  deriving DecidableEq, Repr

/-! ## Event queue (chapter 4) -/

/-- Kind of a record together with the subject it concerns (Table 4-2). -/
inductive RecordKind where
  | trip (entry : Fin 32)
  | clear (entry : Fin 32)
  | stale (channel : Fin 16)
  | invalid (channel : Fin 16)
  | fresh (channel : Fin 16)
  | conflict (line : Fin 16)
  | cutoff
  | restart
  deriving DecidableEq, Repr

/-- What a submitter provides (R63). -/
structure RecordBody where
  kind : RecordKind
  severity : BitVec 2
  byRelease : Bool
  valuePresent : Bool
  fromTimer : Bool
  value : Half
  aux : BitVec 4
  deriving DecidableEq, Repr

/-- A record of the queue: the submitter's part, and what the queue adds at admission (R63, R66). -/
structure Record where
  body : RecordBody
  seq : Half
  timestamp : Word
  lossBefore : Bool
  deriving DecidableEq, Repr

/-- The 65 loss marks (R67). -/
structure LossMarks where
  entry : Vector Bool 32
  channel : Vector Bool 16
  line : Vector Bool 16
  device : Bool
  deriving DecidableEq, Repr

/-- The event queue (R62): records oldest first. -/
structure EventQueue where
  records : List Record
  nextSeq : Half
  marks : LossMarks
  watermark : Byte
  headLatch : Vector Byte 12
  deriving DecidableEq, Repr

/-- A submission that has reached the queue and has not yet been taken by it (R65). `item` is the number of the engine's
work item when it reached the queue. `loose` marks the engine's own records and a CONFLICT raised by a contribution
change: another submitter's record that reaches the queue within the same work item may fall before it (R65, R97, log
8). -/
structure Waiting where
  submitter : Submitter
  item : Nat
  loose : Bool
  body : RecordBody
  deriving DecidableEq, Repr

/-! ## Capture unit (chapter 6) -/

/-- A capture step handed over by the engine (R111). -/
structure CaptureStep where
  acc : Fin 8
  action : CaptureAction
  const : Half
  value : Option Half
  limit : Half
  deriving DecidableEq, Repr

/-- An event that has reached the capture unit and has not yet been taken by it (R110): a capture step, or the READ_ACC
or WRITE_ACC the command unit has handed over. -/
inductive CaptureEvent where
  | step (st : CaptureStep)
  | command
  deriving DecidableEq, Repr

/-! ## Sample port and injection (chapter 8) -/

/-- Reception states of the sample port (R143). -/
inductive Reception where
  | disabled
  | idle
  | receiving
  | waitLow
  deriving DecidableEq, Repr

/-- Outcome of an arrival (R121), with the codes of INJ_RESULT (R153). -/
inductive ArrivalOutcome where
  | accepted
  | refusedSource
  | refusedOff
  deriving DecidableEq, Repr

/-- A good frame on its way to the channel unit (R147). -/
structure PortArrival where
  channel : Fin 16
  raw : Half
  status : SampleStatus
  deriving DecidableEq, Repr

/-- The sample port (R143). `delivered` and `outcomes` are what is on its way to and from the channel unit (R147,
R148). -/
structure Port where
  reception : Reception
  shiftReg : BitVec 24
  bitCount : Nat
  marker : Byte
  parity : Byte
  length : Byte
  unrouted : Byte
  enabled : Bool
  delivered : List PortArrival
  outcomes : List ArrivalOutcome
  deriving DecidableEq, Repr

/-- The injection registers (R152, R153). INJ_TAG keeps six bits. -/
structure Injection where
  value : Half
  latch : Byte
  tag : BitVec 6
  result : ArrivalOutcome
  deriving DecidableEq, Repr

/-! ## Timebase (chapter 9) -/

/-- The timebase (R156 to R158, R161). -/
structure Timebase where
  tbdiv : Half
  tbdivLatch : Byte
  dividerInUse : Half
  prescale : Nat
  timestamp : Word
  readLatch : Word
  deriving DecidableEq, Repr

/-- The ticks the timebase has made and that an owner has still to take: each of the three owners takes the tick as an
event of its own, in its own order with its other events, and of the channel unit's events those of different channels
need no order between them (R159, R120, log 7). -/
structure DueTicks where
  timestamp : Nat
  timerBank : Nat
  channels : Vector Nat 16
  deriving DecidableEq, Repr

/-! ## Command unit, interrupt unit, window (chapter 10) -/

/-- Result codes (Table 10-1). -/
inductive Result where
  | ok
  | badOpcode
  | badIndex
  | badField
  | armed
  | notArmed
  | channelOff
  | inUse
  | trackDepth
  | notHeld
  | noDemand
  | shutoffActive
  | cutActive
  | pairBusy
  | queueEmpty
  | already
  | channelOn
  deriving DecidableEq, Repr

/-- The command state (R167). -/
inductive CommandState where
  | idle
  | pending
  | done
  deriving DecidableEq, Repr

/-- The command unit (section 10.4). `seen` is the staging area as the command in progress sees it, the model's own
field (R6, log 5). -/
structure CommandUnit where
  op : Byte
  arg0 : Byte
  arg1 : Byte
  captured0 : Byte
  captured1 : Byte
  result : Result
  state : CommandState
  seen : Vector Byte 32
  deriving DecidableEq, Repr

/-- The interrupt unit: INT_FLAGS and INT_MASK, seven bits each (R174, R175). -/
structure Interrupts where
  flags : BitVec 7
  mask : BitVec 7
  deriving DecidableEq, Repr

/-- The read latches of the seven bitmaps (R164). -/
structure BitmapLatches where
  pin : BitVec 16
  hold : BitVec 16
  demand : BitVec 16
  cut : BitVec 16
  tripped : Word
  armed : Word
  channelState : Word
  deriving DecidableEq, Repr

/-- The state of the part. `pending` is the queue of the commands that wait, first in first out. -/
structure State where
  pending : List Instr
  /-- In power-on reset: RESET# low, or power-up (R177, R180). -/
  inReset : Bool
  /-- Level of SFRM, `true` for high. -/
  sfrm : Bool
  /-- SHUTOFF# as the output unit takes it, `true` for asserted, that is low (R98). -/
  shutoff : Bool
  entries : Vector Entry 32
  engine : Engine
  /-- The rotation pointer (R36). -/
  pointer : Fin 16
  channels : Vector Channel 16
  lines : Vector Line 16
  /-- The exclusive flag of each pair (R82). -/
  exclusive : Vector Bool 8
  /-- The global output enable, CONTROL bit 0 (R102). -/
  oe : Bool
  queue : EventQueue
  /-- Submissions that have reached the queue and wait, in the order in which they reached it (R65). -/
  waiting : List Waiting
  accs : Vector Word 8
  /-- Events that have reached the capture unit and wait, in the order in which they reached it (R110). -/
  captures : List CaptureEvent
  port : Port
  inj : Injection
  timebase : Timebase
  /-- Ticks on their way to their owners (R159); the model's own field (log 7). -/
  due : DueTicks
  cmd : CommandUnit
  staging : Vector Byte 32
  intr : Interrupts
  latches : BitmapLatches
  /-- D7 to D0 in the bus cycle last made (R162, R181): the byte a read cycle drives, `none`, high-impedance, in a write
  cycle, before the first cycle and in power-on reset. `dataPins` says when the strobes let it drive (log 4). -/
  dataOut : Option Byte
  /-- Number of the engine's work item: it moves on at each take of a claim and at each end of a work item. The model's
  own field (log 8). -/
  workItem : Nat
  /-- Number of free values drawn; the model's own field (log 5). -/
  freeCount : Nat
  deriving DecidableEq, Repr

/-- The power-on configuration of an entry (R1, Table 1-1). -/
def EntryConfig.powerOn : EntryConfig where
  channel := 0
  compare := .above
  limit := 0
  band := 0
  hysteresis := 0
  hystSide := .releaseSide
  track := none
  trackOffset := 0
  onDelay := 0
  offDelay := 0
  latch := false
  startInhibit := false
  faultPolicy := .hold
  output := none
  shaping := .level
  shapeTicks := 0
  captureAcc := none
  captureAction := .set
  captureEdge := .trip
  captureConst := 0
  eventTrip := false
  eventClear := false
  severity := 0

/-- The power-on record of an entry (R1, R61, Table 1-2). -/
def Entry.powerOn : Entry where
  cfg := EntryConfig.powerOn
  state := .disarmed
  condition := false
  effLimit := 0
  tripCount := 0
  lastValue := none
  qual := .unloaded
  qualVoid := 0
  shape := .unloaded
  shapeVoid := 0
  phase := false

/-- The power-on record of a channel (R142, Tables 7-1 and 7-2). -/
def Channel.powerOn : Channel where
  cfg :=
    { source := .port, zeroOffset := 0, avgLen := .one, freshWindow := 0, faultSeverity := 0, faultEvents := false,
      overrangeAsLimit := false }
  state := .off
  quality := .good
  lastRaw := 0
  lastStatus := .good
  value := 0
  ring := []
  slot := none
  fresh := .unloaded
  overruns := 0
  arrivals := 0

/-- The power-on record of a line (R108, Tables 5-1 and 5-2). -/
def Line.powerOn : Line where
  polarity := .activeHigh
  cutMember := false
  conflictEvent := false
  conflictSeverity := 0
  contrib := Vector.replicate 32 false
  demand := false
  override := .auto
  silenced := false
  want := false
  hold := false
  blocked := false
  cut := false
  pinActive := false

/-- All 65 loss marks clear (R67). -/
def LossMarks.clear : LossMarks where
  entry := Vector.replicate 32 false
  channel := Vector.replicate 16 false
  line := Vector.replicate 16 false
  device := false

/-- The power-on state of the event queue (R81). -/
def EventQueue.powerOn : EventQueue where
  records := []
  nextSeq := 0
  marks := LossMarks.clear
  watermark := 1
  headLatch := Vector.replicate 12 0

/-- The power-on state of the sample port (R143, R155). -/
def Port.powerOn : Port where
  reception := .disabled
  shiftReg := 0
  bitCount := 0
  marker := 0
  parity := 0
  length := 0
  unrouted := 0
  enabled := false
  delivered := []
  outcomes := []

/-- The power-on state of the injection registers (R155). -/
def Injection.powerOn : Injection where
  value := 0
  latch := 0
  tag := 0
  result := .accepted

/-- The power-on state of the timebase (R161). -/
def Timebase.powerOn : Timebase where
  tbdiv := 155
  tbdivLatch := 0x9B
  dividerInUse := 155
  prescale := 0
  timestamp := 0
  readLatch := 0

/-- No tick is on its way (R161: while RESET# is low no tick is made). -/
def DueTicks.none : DueTicks where
  timestamp := 0
  timerBank := 0
  channels := Vector.replicate 16 0

/-- The power-on state of the command unit (R171, R177). -/
def CommandUnit.powerOn : CommandUnit where
  op := 0
  arg0 := 0
  arg1 := 0
  captured0 := 0
  captured1 := 0
  result := .ok
  state := .idle
  seen := Vector.replicate 32 0

/-- The part right after power-on reset: every block at the power-on values its chapter gives (R1, R61, R81, R108, R117,
R142, R143, R155, R161, R171, R176, R177). The levels of the input pins SFRM and SHUTOFF# are the model's choice (log
1). -/
def State.reset : State where
  pending := []
  inReset := false
  sfrm := false
  shutoff := false
  entries := Vector.replicate 32 Entry.powerOn
  engine := .free
  pointer := 15
  channels := Vector.replicate 16 Channel.powerOn
  lines := Vector.replicate 16 Line.powerOn
  exclusive := Vector.replicate 8 false
  oe := false
  queue := EventQueue.powerOn
  waiting := []
  accs := Vector.replicate 8 0
  captures := []
  port := Port.powerOn
  inj := Injection.powerOn
  timebase := Timebase.powerOn
  due := DueTicks.none
  cmd := CommandUnit.powerOn
  staging := Vector.replicate 32 0
  intr := { flags := 0, mask := 0 }
  latches := { pin := 0, hold := 0, demand := 0, cut := 0, tripped := 0, armed := 0, channelState := 0 }
  dataOut := none
  workItem := 0
  freeCount := 0

end Sys2Proof.Machine
end

