-- ==== Sys2Proof/Machine/Flags.lean ====
section
/-! DEFINITION. The interrupt unit: the seven flags, requests, the clear by the host, the mask and INT# (R174 to R176). -/

namespace Sys2Proof.Machine

/-- The seven interrupt flags (R174). -/
inductive Flag where
  | events
  | severe
  | loss
  | cutoff
  | port
  | cmd
  | cmdLost
  deriving DecidableEq, Repr

/-- The flag's bit of INT_FLAGS and of INT_MASK (R174). -/
def Flag.mask : Flag → BitVec 7
  | .events => 0x01
  | .severe => 0x02
  | .loss => 0x04
  | .cutoff => 0x08
  | .port => 0x10
  | .cmd => 0x20
  | .cmdLost => 0x40

/-- Whether a flag is set. -/
def flagSet (f : Flag) (s : State) : Bool :=
  s.intr.flags &&& f.mask != 0

/-- A request sets its flag; setting a set flag leaves it set (R174). -/
def request (f : Flag) (s : State) : State :=
  { s with intr := { s.intr with flags := s.intr.flags ||| f.mask } }

/-- A request that is made only on the occasion `b`. -/
def requestIf (b : Bool) (f : Flag) (s : State) : State :=
  if b then request f s else s

/-- A host write of INT_FLAGS clears each flag whose bit is written 1 (R174). -/
def clearFlags (v : Byte) (s : State) : State :=
  { s with intr := { s.intr with flags := s.intr.flags &&& ~~~(v.setWidth 7) } }

/-- A host write of INT_MASK stores bits 0 to 6 (R175). -/
def writeMask (v : Byte) (s : State) : State :=
  { s with intr := { s.intr with mask := v.setWidth 7 } }

/-- INT# is asserted while a flag is set whose mask bit is set; it is released during power-on reset (R175, R177). -/
def intAsserted (s : State) : Bool :=
  !s.inReset && s.intr.flags &&& s.intr.mask != 0

end Sys2Proof.Machine
end

