-- ==== Sys2Proof/Machine/Operands.lean ====
section
/-! DEFINITION. How fields are laid out in bytes: little-endian halves and words, the codes of the enumerations, the
entry, channel, line and accumulator images of the staging area and the record image of the head window, written and
read back; saturation. -/

namespace Sys2Proof.Machine

/-! ## Bytes, bits, saturation -/

/-- Byte `k` of a field, byte 0 the least significant (Table 0-2). -/
def byteOf {w : Nat} (x : BitVec w) (k : Nat) : Byte :=
  (x >>> (8 * k)).setWidth 8

/-- A 16-bit field from its low and high bytes (Table 0-2). -/
def halfOf (low high : Byte) : Half :=
  high ++ low

/-- A 32-bit field from its four bytes, least significant first (Table 0-2). -/
def wordOf (b0 b1 b2 b3 : Byte) : Word :=
  b3 ++ b2 ++ b1 ++ b0

/-- The weight of bit `k` when it is set: for laying flags into a byte. -/
def bit (b : Bool) (k : Nat) : Nat :=
  if b then 2 ^ k else 0

/-- A bit field with bit i set where `f i` is. -/
def packBits (n : Nat) (f : Fin n → Bool) : BitVec n :=
  (BitVec.ofBoolListLE ((List.finRange n).map f)).setWidth n

/-- A vector with `f` applied to each element, in a form the kernel evaluates. -/
def mapVec {α β : Type} {n : Nat} (f : α → β) (v : Vector α n) : Vector β n :=
  Vector.ofFn fun i => f v[i]

/-- An exact integer saturated to −32768…32767 (Table 0-2, R19, R125). -/
def sat16 (x : Int) : Half :=
  BitVec.ofInt 16 (max (-32768) (min 32767 x))

/-- An exact integer saturated to −2147483648…2147483647 (R112). -/
def sat32 (x : Int) : Word :=
  BitVec.ofInt 32 (max (-2147483648) (min 2147483647 x))

/-- One more, staying at the end of the range (trip count R52, overrun counter R122, port counters R149). -/
def satInc {w : Nat} (x : BitVec w) : BitVec w :=
  if x = BitVec.allOnes w then x else x + 1

/-- An index argument: a byte that names one of `n` things, or none (Table 10-2, Note). -/
def indexOf (n : Nat) (b : Byte) : Option (Fin n) :=
  if h : b.toNat < n then some ⟨b.toNat, h⟩ else none

/-- A reference byte: 0xFF for none (R4). -/
def refByte {n : Nat} : Option (Fin n) → Byte
  | none => 0xFF
  | some i => BitVec.ofNat 8 i.val

/-- A reference byte read back: outer `none` when it names nothing in range (R7). -/
def parseRef (n : Nat) (b : Byte) : Option (Option (Fin n)) :=
  if b = 0xFF then some none else (indexOf n b).map some

/-- Whether bit `k` of a byte is 1. -/
def hasBit (b : Byte) (k : Nat) : Bool :=
  b.getLsbD k

/-! ## Codes -/

/-- Code of the compare kind (Table 1-1). -/
def Compare.code : Compare → Nat
  | .above => 0
  | .below => 1
  | .inside => 2
  | .outside => 3

/-- The compare kind of a two-bit code: every code names one (R7). -/
def Compare.ofCode (n : Nat) : Compare :=
  match n with
  | 0 => .above
  | 1 => .below
  | 2 => .inside
  | _ => .outside

/-- Code of the fault policy (Table 1-1). -/
def FaultPolicy.code : FaultPolicy → Nat
  | .hold => 0
  | .trip => 1
  | .clear => 2

/-- The fault policy of a two-bit code; code 3 names nothing (R7). -/
def FaultPolicy.ofCode (n : Nat) : Option FaultPolicy :=
  match n with
  | 0 => some .hold
  | 1 => some .trip
  | 2 => some .clear
  | _ => none

/-- Code of the shaping mode (Table 1-1). -/
def Shaping.code : Shaping → Nat
  | .level => 0
  | .pulse => 1
  | .blink => 2

/-- The shaping mode of a two-bit code; code 3 names nothing (R7). -/
def Shaping.ofCode (n : Nat) : Option Shaping :=
  match n with
  | 0 => some .level
  | 1 => some .pulse
  | 2 => some .blink
  | _ => none

/-- Code of the capture action (Table 1-1). -/
def CaptureAction.code : CaptureAction → Nat
  | .set => 0
  | .excess => 1
  | .add => 2
  | .copy => 3

/-- The capture action of a two-bit code: every code names one (R7). -/
def CaptureAction.ofCode (n : Nat) : CaptureAction :=
  match n with
  | 0 => .set
  | 1 => .excess
  | 2 => .add
  | _ => .copy

/-- Code of the capture edge (Table 1-1). -/
def CaptureEdge.code : CaptureEdge → Nat
  | .trip => 0
  | .clear => 1
  | .both => 2

/-- The capture edge of a two-bit code; code 3 names nothing (R7). -/
def CaptureEdge.ofCode (n : Nat) : Option CaptureEdge :=
  match n with
  | 0 => some .trip
  | 1 => some .clear
  | 2 => some .both
  | _ => none

/-- Code of the entry state (Table 1-3, byte 22). -/
def EntryState.code : EntryState → Nat
  | .disarmed => 0
  | .inhibited => 1
  | .normal => 2
  | .pendingTrip => 3
  | .tripped => 4
  | .pendingClear => 5
  | .held => 6

/-- The tripped family (Table 3-1). -/
def EntryState.inFamily : EntryState → Bool
  | .tripped | .pendingClear | .held => true
  | .disarmed | .inhibited | .normal | .pendingTrip => false

/-- Code of the source (Table 7-1). -/
def Source.code : Source → Nat
  | .port => 0
  | .host => 1
  | .either => 2

/-- The source of a two-bit code; code 3 names nothing (R139). -/
def Source.ofCode (n : Nat) : Option Source :=
  match n with
  | 0 => some .port
  | 1 => some .host
  | 2 => some .either
  | _ => none

/-- Code of the averaging length (Table 7-1). -/
def AvgLen.code : AvgLen → Nat
  | .one => 0
  | .two => 1
  | .four => 2
  | .eight => 3

/-- The averaging length of a two-bit code (Table 7-1). -/
def AvgLen.ofCode (n : Nat) : AvgLen :=
  match n with
  | 0 => .one
  | 1 => .two
  | 2 => .four
  | _ => .eight

/-- How many values the ring holds (Table 7-1). -/
def AvgLen.size : AvgLen → Nat
  | .one => 1
  | .two => 2
  | .four => 4
  | .eight => 8

/-- Code of a sample status (R119). -/
def SampleStatus.code : SampleStatus → Nat
  | .good => 0
  | .overHigh => 1
  | .overLow => 2
  | .fault => 3

/-- The sample status of a two-bit code (R119). -/
def SampleStatus.ofCode (n : Nat) : SampleStatus :=
  match n with
  | 0 => .good
  | 1 => .overHigh
  | 2 => .overLow
  | _ => .fault

/-- Code of a channel state (Table 7-3). -/
def ChannelState.code : ChannelState → Nat
  | .off => 0
  | .waiting => 1
  | .live => 2
  | .stale => 3

/-- Code of an override mode (Table 5-3, R93). -/
def Override.code : Override → Nat
  | .auto => 0
  | .forceOn => 1
  | .forceOff => 2

/-- The override mode of an argument byte; a value above 2 names nothing (R93). -/
def Override.ofCode (n : Nat) : Option Override :=
  match n with
  | 0 => some .auto
  | 1 => some .forceOn
  | 2 => some .forceOff
  | _ => none

/-- Codes of the command state (R163). -/
def CommandState.code : CommandState → Nat
  | .idle => 0
  | .pending => 1
  | .done => 2

/-- Codes of CMD_RESULT (Table 10-1). -/
def Result.code : Result → Byte
  | .ok => 0x00
  | .badOpcode => 0x01
  | .badIndex => 0x02
  | .badField => 0x03
  | .armed => 0x04
  | .notArmed => 0x05
  | .channelOff => 0x06
  | .inUse => 0x07
  | .trackDepth => 0x08
  | .notHeld => 0x09
  | .noDemand => 0x0A
  | .shutoffActive => 0x0B
  | .cutActive => 0x0C
  | .pairBusy => 0x0D
  | .queueEmpty => 0x0E
  | .already => 0x0F
  | .channelOn => 0x10

/-- Codes of INJ_RESULT (R153). -/
def ArrivalOutcome.code : ArrivalOutcome → Byte
  | .accepted => 0
  | .refusedSource => 1
  | .refusedOff => 2

/-- Kind codes of a record (Table 4-1). -/
def RecordKind.code : RecordKind → Nat
  | .trip _ => 1
  | .clear _ => 2
  | .stale _ => 3
  | .invalid _ => 4
  | .fresh _ => 5
  | .conflict _ => 6
  | .cutoff => 7
  | .restart => 8

/-- Subject byte of a record (Tables 4-1 and 4-3); 0 for the device. -/
def RecordKind.subject : RecordKind → Byte
  | .trip n | .clear n => BitVec.ofNat 8 n.val
  | .stale c | .invalid c | .fresh c => BitVec.ofNat 8 c.val
  | .conflict l => BitVec.ofNat 8 l.val
  | .cutoff | .restart => 0

/-! ## Timers as images show them -/

/-- Whether a timer is loaded: running or expired (R40). -/
def Timer.loaded : Timer → Bool
  | .unloaded => false
  | .running _ | .expired => true

/-- The remaining count as images show it (R40). -/
def Timer.remaining : Timer → Half
  | .running c => c
  | .unloaded | .expired => 0

/-- The freshness count as the channel image shows it (R131). -/
def FreshTimer.remaining : FreshTimer → Half
  | .running c => c
  | .unloaded => 0

/-! ## The entry image (Table 1-3) -/

/-- The 32-byte image of an entry, with the queue's loss mark for it (R4, R5). -/
def entryImage (e : Entry) (mark : Bool) : Vector Byte 32 :=
  let c := e.cfg
  let last := e.lastValue.getD 0
  #v[BitVec.ofNat 8 (c.channel.val + 16 * c.faultPolicy.code),
    BitVec.ofNat 8 (c.compare.code + bit (c.hystSide == .tripSide) 2 + bit c.latch 3 + bit c.startInhibit 4
      + bit c.eventTrip 5 + bit c.eventClear 6),
    byteOf c.limit 0, byteOf c.limit 1,
    byteOf c.band 0, byteOf c.band 1,
    byteOf c.hysteresis 0, byteOf c.hysteresis 1,
    refByte c.track,
    byteOf c.trackOffset 0, byteOf c.trackOffset 1,
    byteOf c.onDelay 0, byteOf c.onDelay 1,
    byteOf c.offDelay 0, byteOf c.offDelay 1,
    refByte c.output,
    BitVec.ofNat 8 (c.shaping.code + 4 * c.captureEdge.code + 16 * c.captureAction.code + 64 * c.severity.toNat),
    byteOf c.shapeTicks 0, byteOf c.shapeTicks 1,
    refByte c.captureAcc,
    byteOf c.captureConst 0, byteOf c.captureConst 1,
    BitVec.ofNat 8 e.state.code,
    BitVec.ofNat 8 (bit e.condition 0 + bit e.lastValue.isSome 1 + bit mark 2 + bit e.shape.loaded 3 + bit e.phase 4),
    byteOf e.qual.remaining 0, byteOf e.qual.remaining 1,
    byteOf e.effLimit 0, byteOf e.effLimit 1,
    byteOf e.tripCount 0, byteOf e.tripCount 1,
    byteOf last 0, byteOf last 1]

/-- The configuration proposed by staging bytes 0 to 21, `none` when the range check fails (R6, R7). -/
def parseEntry (b : Vector Byte 32) : Option EntryConfig :=
  match FaultPolicy.ofCode (b[0].toNat / 16 % 4), Shaping.ofCode (b[16].toNat % 4),
    CaptureEdge.ofCode (b[16].toNat / 4 % 4), parseRef 32 b[8], parseRef 16 b[15], parseRef 8 b[19] with
  | some faultPolicy, some shaping, some captureEdge, some track, some output, some captureAcc =>
    let band := halfOf b[4] b[5]
    let hysteresis := halfOf b[6] b[7]
    let shapeTicks := halfOf b[17] b[18]
    if 32767 < band.toNat || 32767 < hysteresis.toNat || (shaping != .level && shapeTicks == 0) then none
    else some
      { channel := ⟨b[0].toNat % 16, Nat.mod_lt _ (by decide)⟩
        compare := Compare.ofCode (b[1].toNat % 4)
        limit := halfOf b[2] b[3]
        band := band
        hysteresis := hysteresis
        hystSide := if hasBit b[1] 2 then .tripSide else .releaseSide
        track := track
        trackOffset := halfOf b[9] b[10]
        onDelay := halfOf b[11] b[12]
        offDelay := halfOf b[13] b[14]
        latch := hasBit b[1] 3
        startInhibit := hasBit b[1] 4
        faultPolicy := faultPolicy
        output := output
        shaping := shaping
        shapeTicks := shapeTicks
        captureAcc := captureAcc
        captureAction := CaptureAction.ofCode (b[16].toNat / 16 % 4)
        captureEdge := captureEdge
        captureConst := halfOf b[20] b[21]
        eventTrip := hasBit b[1] 5
        eventClear := hasBit b[1] 6
        severity := BitVec.ofNat 2 (b[16].toNat / 64) }
  | _, _, _, _, _, _ => none

/-! ## The channel image (Table 7-5) -/

/-- Slot content code (Table 7-5, byte 5). -/
def slotCode : Option Item → Nat
  | none => 0
  | some (.sample _ _) => 1
  | some .fault => 2

/-- Value `i` of the ring, 0 beyond its count (Table 7-5, bytes 12 to 27). -/
def ringAt (ch : Channel) (i : Nat) : Half :=
  ch.ring.getD i 0

/-- The 32-byte image of a channel, with the queue's loss mark for it (R138). -/
def channelImage (ch : Channel) (mark : Bool) : Vector Byte 32 :=
  #v[BitVec.ofNat 8 (ch.cfg.source.code + 4 * ch.cfg.avgLen.code + 16 * ch.cfg.faultSeverity.toNat
      + bit ch.cfg.faultEvents 6 + bit ch.cfg.overrangeAsLimit 7),
    byteOf ch.cfg.zeroOffset 0, byteOf ch.cfg.zeroOffset 1,
    byteOf ch.cfg.freshWindow 0, byteOf ch.cfg.freshWindow 1,
    BitVec.ofNat 8 (ch.state.code + bit (ch.quality == .invalid) 2 + bit mark 3 + 16 * slotCode ch.slot),
    byteOf ch.value 0, byteOf ch.value 1,
    byteOf ch.lastRaw 0, byteOf ch.lastRaw 1,
    BitVec.ofNat 8 ch.lastStatus.code,
    BitVec.ofNat 8 ch.ring.length,
    byteOf (ringAt ch 0) 0, byteOf (ringAt ch 0) 1, byteOf (ringAt ch 1) 0, byteOf (ringAt ch 1) 1,
    byteOf (ringAt ch 2) 0, byteOf (ringAt ch 2) 1, byteOf (ringAt ch 3) 0, byteOf (ringAt ch 3) 1,
    byteOf (ringAt ch 4) 0, byteOf (ringAt ch 4) 1, byteOf (ringAt ch 5) 0, byteOf (ringAt ch 5) 1,
    byteOf (ringAt ch 6) 0, byteOf (ringAt ch 6) 1, byteOf (ringAt ch 7) 0, byteOf (ringAt ch 7) 1,
    byteOf ch.fresh.remaining 0, byteOf ch.fresh.remaining 1,
    ch.overruns, ch.arrivals]

/-- The configuration proposed by staging bytes 0 to 4, `none` when the source code is 3 (R139). -/
def parseChannel (b : Vector Byte 32) : Option ChannelConfig :=
  match Source.ofCode (b[0].toNat % 4) with
  | some source => some
      { source := source
        zeroOffset := halfOf b[1] b[2]
        avgLen := AvgLen.ofCode (b[0].toNat / 4 % 4)
        freshWindow := halfOf b[3] b[4]
        faultSeverity := BitVec.ofNat 2 (b[0].toNat / 16)
        faultEvents := hasBit b[0] 6
        overrangeAsLimit := hasBit b[0] 7 }
  | none => none

/-! ## The line image (Table 5-3) -/

/-- The number of entries in a contribution set. -/
def contribCount (v : Vector Bool 32) : Nat :=
  (List.finRange 32).countP fun n => v[n]

/-- The 32-byte image of a line, with its pair's exclusive flag and the queue's loss mark for it (R104). -/
def lineImage (ln : Line) (exclusive mark : Bool) : Vector Byte 32 :=
  let set := packBits 32 fun n => ln.contrib[n]
  #v[BitVec.ofNat 8 (bit (ln.polarity == .activeLow) 0 + bit ln.cutMember 1 + bit ln.conflictEvent 2 + bit exclusive 3
      + 16 * ln.conflictSeverity.toNat),
    BitVec.ofNat 8 ln.override.code,
    BitVec.ofNat 8 (bit ln.demand 0 + bit ln.silenced 1 + bit ln.want 2 + bit ln.hold 3 + bit ln.blocked 4 + bit ln.cut 5
      + bit ln.pinActive 6 + bit mark 7),
    BitVec.ofNat 8 (contribCount ln.contrib),
    byteOf set 0, byteOf set 1, byteOf set 2, byteOf set 3,
    0, 0, 0, 0, 0, 0, 0, 0, 0, 0, 0, 0, 0, 0, 0, 0, 0, 0, 0, 0, 0, 0, 0, 0]

/-- The configuration a WRITE_LINE proposes (R105): the line's own fields and the pair's flag. -/
structure LineProposal where
  polarity : Polarity
  cutMember : Bool
  conflictEvent : Bool
  exclusive : Bool
  conflictSeverity : BitVec 2
  deriving DecidableEq, Repr

/-- The proposal of staging byte 0: every value names a valid configuration, bits 6 and 7 are ignored (R105). -/
def parseLine (b : Byte) : LineProposal where
  polarity := if hasBit b 0 then .activeLow else .activeHigh
  cutMember := hasBit b 1
  conflictEvent := hasBit b 2
  exclusive := hasBit b 3
  conflictSeverity := BitVec.ofNat 2 (b.toNat / 16)

/-! ## The head window (Table 4-3) -/

/-- The 12-byte image of a record (R64). -/
def recordImage (r : Record) : Vector Byte 12 :=
  #v[byteOf r.seq 0, byteOf r.seq 1,
    byteOf r.timestamp 0, byteOf r.timestamp 1, byteOf r.timestamp 2, byteOf r.timestamp 3,
    BitVec.ofNat 8 (r.body.kind.code + 16 * r.body.severity.toNat),
    BitVec.ofNat 8 (bit r.lossBefore 0 + bit r.body.byRelease 1 + bit r.body.valuePresent 2 + bit r.body.fromTimer 3),
    r.body.kind.subject,
    byteOf r.body.value 0, byteOf r.body.value 1,
    BitVec.ofNat 8 r.body.aux.toNat]

end Sys2Proof.Machine
end

