-- ==== Sys2Proof/Machine/Ops.lean ====
section
/-! DEFINITION. Operations the blocks share: updates of one table record, the command unit's readiness and completion,
timers of the timer bank, hand-over of a record, host cycles. -/

namespace Sys2Proof.Machine

/-! ## Table records -/

/-- Change entry `n`. -/
def modEntry (n : Fin 32) (f : Entry → Entry) (s : State) : State :=
  { s with entries := s.entries.set n (f s.entries[n]) }

/-- Change channel `c`. -/
def modChannel (c : Fin 16) (f : Channel → Channel) (s : State) : State :=
  { s with channels := s.channels.set c (f s.channels[c]) }

/-- Change line `l`. -/
def modLine (l : Fin 16) (f : Line → Line) (s : State) : State :=
  { s with lines := s.lines.set l (f s.lines[l]) }

/-! ## The command unit -/

/-- Command `c` is with its owner: the command state is PENDING and CMD_OP holds its opcode (R167, R168). -/
def ready (c : Command) (s : State) : Bool :=
  s.cmd.state == .pending && s.cmd.op == encodeOpcode c

/-- Completion of a command (R168): CMD_RESULT, DONE, and the CMD request. -/
def complete (r : Result) (s : State) : State :=
  request .cmd { s with cmd := { s.cmd with result := r, state := .done } }

/-! ## Timers of the timer bank -/

/-- Void claims that unloading or reloading the timer leaves behind: one when it had expired (R42). -/
def Timer.claims : Timer → Nat
  | .unloaded | .running _ => 0
  | .expired => 1

/-- A tick (R41, R159): a running count is decremented; the tick that brings it to zero makes the timer expired and so
raises its claim at once. -/
def Timer.tick : Timer → Timer
  | .running c => if c.toNat ≤ 1 then .expired else .running (c - 1)
  | .unloaded => .unloaded
  | .expired => .expired

/-- The next tick brings the timer to zero (R41). -/
def Timer.expiring : Timer → Bool
  | .running c => c.toNat ≤ 1
  | .unloaded | .expired => false

/-- Load the qualification timer (R41); a claim of the old count that was waiting becomes void (R42). -/
def Entry.loadQual (d : Half) (e : Entry) : Entry :=
  { e with qual := .running d, qualVoid := e.qualVoid + e.qual.claims }

/-- Cancel the qualification timer (R42). -/
def Entry.cancelQual (e : Entry) : Entry :=
  { e with qual := .unloaded, qualVoid := e.qualVoid + e.qual.claims }

/-- Load the shaping timer (R86, R88); a claim of the old count that was waiting becomes void. -/
def Entry.loadShape (d : Half) (e : Entry) : Entry :=
  { e with shape := .running d, shapeVoid := e.shapeVoid + e.shape.claims }

/-- Cancel the shaping timer (R88, R90). -/
def Entry.cancelShape (e : Entry) : Entry :=
  { e with shape := .unloaded, shapeVoid := e.shapeVoid + e.shape.claims }

/-! ## Hand-over of records -/

/-- A submitter hands a record over: it reaches the event queue behind every submission that waits there (R65), `loose`
when another submitter's record of the same work item may fall before it (R65, R97, log 8). -/
def handOver (who : Submitter) (loose : Bool) (b : RecordBody) (s : State) : State :=
  { s with waiting := s.waiting ++ [{ submitter := who, item := s.workItem, loose := loose, body := b }] }

/-- A record is handed over on the occasion `b` only. -/
def handOverIf (b : Bool) (who : Submitter) (loose : Bool) (r : RecordBody) (s : State) : State :=
  if b then handOver who loose r s else s

/-! ## Host cycles -/

/-- A read cycle drives the byte it returns on D7 to D0 (R162, R181). -/
def driveOut (b : Byte) (s : State) : State :=
  { s with dataOut := some b }

/-- D7 to D0 are not driven in a write cycle (R162, R181). -/
def floatData (s : State) : State :=
  { s with dataOut := none }

/-- A write cycle (R162): its effect `f` on the owner of the location. During power-on reset it is no event. -/
def hostWrite (f : State → State) (s : State) : State :=
  if s.inReset then s else f (floatData s)

/-- A read cycle (R162): the effect `f` of the read on the latch of the location, and the byte it returns. During
power-on reset it is no event and drives nothing (R181). -/
def hostRead (b : Byte) (f : State → State) (s : State) : State :=
  if s.inReset then s else driveOut b (f s)

end Sys2Proof.Machine
end

