-- ==== Sys2Proof/Machine/Capture.lean ====
section
/-! DEFINITION. The capture unit (chapter 6): capture actions, READ_ACC and WRITE_ACC. -/

namespace Sys2Proof.Machine

/-- The new value of the accumulator (Table 6-1, R112, R113); EXCESS and COPY with an absent edge value leave it. -/
def captureResult (st : CaptureStep) (old : Word) : Word :=
  match st.action, st.value with
  | .set, _ => BitVec.ofInt 32 st.const.toInt
  | .add, _ => sat32 (old.toInt + st.const.toInt)
  | .excess, some v => BitVec.ofInt 32 (v.toInt - st.limit.toInt + st.const.toInt)
  | .copy, some v => BitVec.ofInt 32 v.toInt
  | .excess, none => old
  | .copy, none => old

/-- The capture unit applies one step to the accumulator as it stands (R111). -/
def applyCapture (st : CaptureStep) (s : State) : State :=
  { s with accs := s.accs.set st.acc (captureResult st s.accs[st.acc]) }

/-- CAPTURE_STEP (R110, R111, R114): the capture unit takes a step when it is the event that has waited longest. -/
def execCaptureStep (s : State) : Host.Outcome State Fault Refusal :=
  match s.captures with
  | .step st :: rest => .next (applyCapture st { s with captures := rest })
  | .command :: _ | [] => .next s

/-- The capture unit takes command `c` now (R110): the command waits, and every event that reached the unit before it has
been taken. The state is then that without the command's place; `none` otherwise. -/
def takeAccCommand (c : Command) (s : State) : Option State :=
  match s.captures with
  | .command :: rest => if ready c s then some { s with captures := rest } else none
  | .step _ :: _ | [] => none

/-- The staging area with an accumulator image in bytes 0 to 3 (Table 6-2, R115). -/
def withAccImage (x : Word) (b : Vector Byte 32) : Vector Byte 32 :=
  (((b.set 0 (byteOf x 0)).set 1 (byteOf x 1)).set 2 (byteOf x 2)).set 3 (byteOf x 3)

/-- READ_ACC (R110, R115). -/
def execReadAcc (s : State) : Host.Outcome State Fault Refusal :=
  match takeAccCommand .readAcc s with
  | none => .next s
  | some s =>
    match indexOf 8 s.cmd.captured0 with
    | none => .next (complete .badIndex s)
    | some a => .next (complete .ok { s with staging := withAccImage s.accs[a] s.staging })

/-- WRITE_ACC (R110, R116). -/
def execWriteAcc (s : State) : Host.Outcome State Fault Refusal :=
  match takeAccCommand .writeAcc s with
  | none => .next s
  | some s =>
    match indexOf 8 s.cmd.captured0 with
    | none => .next (complete .badIndex s)
    | some a =>
      .next (complete .ok { s with
        accs := s.accs.set a (wordOf s.cmd.seen[0] s.cmd.seen[1] s.cmd.seen[2] s.cmd.seen[3]) })

end Sys2Proof.Machine
end

