-- ==== Sys2Proof/Config.lean ====
section
/-! DEFINITION. What the spec leaves to the device: one free choice, which nothing in the model evaluates. -/

namespace Sys2Proof.Config

/-- Whether the k-th host write to a staging byte made while a command is PENDING is seen by that command.
R6: "A host write to a staging byte made between the CMD_OP write and that moment may or may not be seen: for each
such byte the command uses either the old or the new value" (also R105, R116, R139, R166). A free value: no body,
so nothing can be proved of its value (log 5). -/
opaque stagingWriteSeen : Nat → Bool

end Sys2Proof.Config
end

