-- ==== Sys2Proof/Machine/Queue.lean ====
section
/-! DEFINITION. The event queue (chapter 4): admission, eviction and drop, loss marks, POP, FLUSH, the watermark and the
head latch. -/

namespace Sys2Proof.Machine

/-- The mark of a record's subject key (R67). -/
def LossMarks.get (m : LossMarks) : RecordKind → Bool
  | .trip n | .clear n => m.entry[n]
  | .stale c | .invalid c | .fresh c => m.channel[c]
  | .conflict l => m.line[l]
  | .cutoff | .restart => m.device

/-- Write the mark of a record's subject key (R67). -/
def LossMarks.put (m : LossMarks) (k : RecordKind) (b : Bool) : LossMarks :=
  match k with
  | .trip n | .clear n => { m with entry := m.entry.set n b }
  | .stale c | .invalid c | .fresh c => { m with channel := m.channel.set c b }
  | .conflict l => { m with line := m.line.set l b }
  | .cutoff | .restart => { m with device := b }

/-- The victim of R68 among records, oldest first, none of them the head: the newest whose severity is lower than `sev`,
with the records that are left. -/
def evictNewest (sev : BitVec 2) : List Record → Option (Record × List Record)
  | [] => none
  | r :: rs =>
    match evictNewest sev rs with
    | some (v, rest) => some (v, r :: rest)
    | none => if r.body.severity < sev then some (r, rs) else none

/-- Steps 1 to 4 of R66: the record takes NEXT_SEQ, the timestamp and LOSS_BEFORE, and is appended at the tail. -/
def EventQueue.append (q : EventQueue) (b : RecordBody) (now : Word) : EventQueue :=
  { q with
    records := q.records ++ [{ body := b, seq := q.nextSeq, timestamp := now, lossBefore := q.marks.get b.kind }]
    nextSeq := q.nextSeq + 1
    marks := q.marks.put b.kind false }

/-- The SEVERE request of an admission (R78). -/
def requestSevere (b : RecordBody) (s : State) : State :=
  requestIf (b.severity == 3) .severe s

/-- Admission with room (R66), with the EVENTS request when the count comes to WATERMARK (R77) and SEVERE (R78). -/
def admitWithRoom (b : RecordBody) (s : State) : State :=
  let s1 := { s with queue := s.queue.append b s.timebase.timestamp }
  requestSevere b (requestIf (s1.queue.records.length == s1.queue.watermark.toNat) .events s1)

/-- Admission by eviction of `victim` (R68): its mark is set first, the incoming record is appended to what is left, LOSS
and perhaps SEVERE are requested. -/
def admitByEviction (b : RecordBody) (victim : Record) (rest : List Record) (s : State) : State :=
  let q1 := { s.queue with records := rest, marks := s.queue.marks.put victim.body.kind true }
  requestSevere b (request .loss { s with queue := q1.append b s.timebase.timestamp })

/-- Drop of the incoming record (R69): its mark is set and LOSS requested. -/
def dropRecord (b : RecordBody) (s : State) : State :=
  request .loss { s with queue := { s.queue with marks := s.queue.marks.put b.kind true } }

/-- The queue takes one submission whole (R65, Table 4-4). -/
def takeRecord (b : RecordBody) (s : State) : State :=
  if s.queue.records.length < 64 then admitWithRoom b s
  else
    match s.queue.records with
    | [] => dropRecord b s
    | head :: tail =>
      match evictNewest b.severity tail with
      | some (victim, rest) => admitByEviction b victim (head :: rest) s
      | none => dropRecord b s

/-- Whether `w` may be taken before `v`, another submitter's, which stands before it: only where both reached the queue
within one work item of the engine and `v` is one of that work item's own records, the engine's or a CONFLICT that its
contribution change raised. Among these a record of another submitter may fall anywhere, from the beginning of the work
item to its end (R65, R97, log 8). -/
def Waiting.mayPass (w v : Waiting) : Bool :=
  w.item == v.item && v.loose

/-- The submission of `who` that the queue can take next (R65): its oldest, when everything that reached the queue before
it may be passed. -/
def nextSubmission (who : Submitter) (s : State) : Option Waiting :=
  match s.waiting.find? fun w => w.submitter == who with
  | none => none
  | some w => if (s.waiting.takeWhile fun v => v.submitter != who).all w.mayPass then some w else none

/-- The queue takes every submission that waits, in the order in which they reached it (R65). -/
def takeWaiting (s : State) : State :=
  s.waiting.foldl (fun u w => takeRecord w.body u) { s with waiting := [] }

/-- RECORD_SUBMISSION (R65): the queue takes the next submission of `who`. -/
def execRecordSubmission (who : Submitter) (s : State) : Host.Outcome State Fault Refusal :=
  match nextSubmission who s with
  | some w => .next (takeRecord w.body { s with waiting := s.waiting.eraseP fun w => w.submitter == who })
  | none => .next s

/-- POP (R73): remove the head record, or complete with QUEUE_EMPTY. -/
def execPop (s : State) : Host.Outcome State Fault Refusal :=
  if ready .pop s then
    match s.queue.records with
    | [] => .next (complete .queueEmpty s)
    | _ :: rest => .next (complete .ok { s with queue := { s.queue with records := rest } })
  else .next s

/-- Every record and every loss mark removed (R74, R80). -/
def EventQueue.emptied (q : EventQueue) : EventQueue :=
  { q with records := [], marks := LossMarks.clear }

/-- FLUSH (R74). -/
def execFlush (s : State) : Host.Outcome State Fault Refusal :=
  if ready .flush s then .next (complete .ok { s with queue := s.queue.emptied }) else .next s

/-- The value WATERMARK stores (R77): 0 stores 1, above 64 stores 64. -/
def clipWatermark (v : Byte) : Byte :=
  if v = 0 then 1 else if 64 < v.toNat then 64 else v

/-- A host write of WATERMARK (R77), with the EVENTS request when the stored value is not above the count. -/
def writeWatermark (v : Byte) (s : State) : State :=
  requestIf ((clipWatermark v).toNat ≤ s.queue.records.length) .events
    { s with queue := { s.queue with watermark := clipWatermark v } }

/-- WATERMARK_WRITE (R77). -/
def execWatermarkWrite (v : Byte) (s : State) : Host.Outcome State Fault Refusal :=
  .next (hostWrite (writeWatermark v) s)

/-- What the head latch receives (R72): the head record, or zeros when the queue is empty. -/
def headImage (s : State) : Vector Byte 12 :=
  match s.queue.records with
  | [] => Vector.replicate 12 0
  | r :: _ => recordImage r

/-- A read of head byte 0 loads the head latch (R72). -/
def loadHead (s : State) : State :=
  { s with queue := { s.queue with headLatch := headImage s } }

/-- HEAD_LATCH_LOAD (R72): a read cycle of head byte 0. -/
def execHeadLatchLoad (s : State) : Host.Outcome State Fault Refusal :=
  .next (hostRead (headImage s)[0] loadHead s)

end Sys2Proof.Machine
end

