-- ==== Sys2Proof/Machine/ChannelCommands.lean ====
section
/-! DEFINITION. READ_CHANNEL and WRITE_CHANNEL (R138 to R140), the two commands the channel unit serves as events of its
own, and when it takes them (R120). -/

namespace Sys2Proof.Machine

/-- The channel the captured argument names. -/
def channelArg (s : State) : Option (Fin 16) :=
  indexOf 16 s.cmd.captured0

/-- READ_CHANNEL as the channel unit serves it (R138). -/
def serveReadChannel (s : State) : State :=
  match channelArg s with
  | none => complete .badIndex s
  | some c => complete .ok { s with staging := channelImage s.channels[c] (s.queue.marks.get (.stale c)) }

/-- WRITE_CHANNEL as the channel unit serves it (R139, R140). -/
def serveWriteChannel (s : State) : State :=
  match channelArg s with
  | none => complete .badIndex s
  | some c =>
    match parseChannel s.cmd.seen with
    | none => complete .badField s
    | some cfg =>
      if cfg.avgLen != s.channels[c].cfg.avgLen && s.channels[c].state != .off then complete .channelOn s
      else complete .ok (modChannel c (fun ch => { ch with cfg := cfg }) s)

/-- The command that waits with the channel unit for channel `c` is taken, if there is one: it reached the channel before
the event that is to come (R120, R167, log 12). -/
def takeChannelCommand (c : Fin 16) (s : State) : State :=
  if channelArg s != some c then s
  else if ready .readChannel s then serveReadChannel s
  else if ready .writeChannel s then serveWriteChannel s
  else s

/-- READ_CHANNEL (R138). -/
def execReadChannel (s : State) : Host.Outcome State Fault Refusal :=
  .next (if ready .readChannel s then serveReadChannel s else s)

/-- WRITE_CHANNEL (R139, R140). -/
def execWriteChannel (s : State) : Host.Outcome State Fault Refusal :=
  .next (if ready .writeChannel s then serveWriteChannel s else s)

end Sys2Proof.Machine
end

