-- ==== Sys2Proof/Machine/Choice.lean ====
section
/-! DEFINITION. The claims on the evaluation engine (R34): what waits for it, the order in which it takes what waits (R35,
R36), and the taking, which a free engine does at once. -/

namespace Sys2Proof.Machine

/-! ## What waits -/

/-- A qualification claim of the entry waits: a live one, or a void one (R42). -/
def Entry.qualClaim (e : Entry) : Bool :=
  e.qual == .expired || e.qualVoid != 0

/-- A shaping claim of the entry waits, live or void. -/
def Entry.shapeClaim (e : Entry) : Bool :=
  e.shape == .expired || e.shapeVoid != 0

/-- The expiry the engine takes next: of the lowest-indexed entry, its qualification expiry before its shaping expiry
(R35). -/
def nextExpiry (s : State) : Option (Fin 32 × TimerKind) :=
  match (List.finRange 32).find? fun n => s.entries[n].qualClaim || s.entries[n].shapeClaim with
  | some n => some (n, if s.entries[n].qualClaim then .qualification else .shaping)
  | none => none

/-- A table command waits for the engine (R34). -/
def tableWaiting (s : State) : Bool :=
  s.cmd.state == .pending && ((decodeOpcode s.cmd.op).map Command.isTable).getD false

/-- The expiry or table command the engine takes next (R35). -/
def nextClaim (s : State) : Option Claim :=
  match nextExpiry s with
  | some (n, k) => some (.expiry n k)
  | none => if tableWaiting s then some .table else none

/-- The channel whose item the engine takes next: the lowest-numbered above the pointer whose slot holds an item, else
the lowest-numbered from 0 (R36). -/
def nextChannel (s : State) : Option (Fin 16) :=
  match (List.finRange 16).find? fun c => s.pointer < c && s.channels[c].slot.isSome with
  | some c => some c
  | none => (List.finRange 16).find? fun c => s.channels[c].slot.isSome

/-! ## The taking -/

/-- The engine takes a claim as a new work item, whose number moves on (R34, log 8). -/
def takeClaim (c : Claim) (s : State) : State :=
  { s with engine := .taken c, workItem := s.workItem + 1 }

/-- The engine takes the item of channel `c` (R36, R37 step 1): its slot becomes empty at once, and the pointer is set to
the channel. The take is an event of the channel unit, and a command that waits there for `c` is taken before it (R120). -/
def takeItem (c : Fin 16) (item : Item) (s : State) : State :=
  { modChannel c (fun ch => { ch with slot := none }) (takeChannelCommand c s) with
    pointer := c, engine := .settling c item, workItem := s.workItem + 1 }

/-- The engine takes the channel item the rotation chooses, if a slot holds one (R36). -/
def takeNextItem (s : State) : State :=
  match nextChannel s with
  | none => s
  | some c =>
    match s.channels[c].slot with
    | none => s
    | some item => takeItem c item s

/-- The free engine takes at once what R35 puts first of what waits: an expiry, the table command, a channel item. A busy
engine takes nothing (R34). -/
def chooseWork (s : State) : State :=
  match s.engine with
  | .free =>
    match nextClaim s with
    | some c => takeClaim c s
    | none => takeNextItem s
  | .taken _ | .settling _ _ | .handling _ _ _ | .ending | .releasing _ _ | .restarting _ _ _ _ _ => s

/-- The work item ends: its number moves on, the engine comes free, and it chooses afresh (R34, R35, log 8). -/
def comeFree (s : State) : State :=
  chooseWork { s with engine := .free, workItem := s.workItem + 1 }

/-- The engine has taken table command `c`, and is to serve it (R34, R58). -/
def tableReady (c : Command) (s : State) : Bool :=
  s.engine == .taken .table && ready c s

/-- The service of a table command ends with its completion, and with it the engine's work item (R39, R168). -/
def endService (r : Result) (s : State) : State :=
  comeFree (complete r s)

end Sys2Proof.Machine
end

