-- ==== Sys2Proof/Machine/Channels.lean ====
section
/-! DEFINITION. The channel unit (chapter 7): arrivals and the pending slot, settling and averaging, the freshness
monitor, ENABLE and DISABLE. -/

namespace Sys2Proof.Machine

/-! ## Freshness -/

/-- A freshness timer loaded with a window, or unloaded when the window is 0 (R131). -/
def freshLoad (window : Half) : FreshTimer :=
  if window = 0 then .unloaded else .running window

/-- The next tick brings the timer to zero (R131). -/
def FreshTimer.expiring : FreshTimer → Bool
  | .running c => c.toNat ≤ 1
  | .unloaded => false

/-- A tick on a freshness timer it does not bring to zero (R131). -/
def FreshTimer.tick : FreshTimer → FreshTimer
  | .running c => .running (c - 1)
  | .unloaded => .unloaded

/-- A record of the channel unit: its severity is the channel's fault_severity (Table 4-2). -/
def channelRecord (k : RecordKind) (ch : Channel) (value : Option Half) (aux : BitVec 4) : RecordBody :=
  { kind := k, severity := ch.cfg.faultSeverity, byRelease := false, valuePresent := value.isSome, fromTimer := false,
    value := value.getD 0, aux := aux }

/-- The channel after its freshness expiry (R132, R133): a fault item takes the slot, the ring is emptied, the timer is
unloaded, and a WAITING or LIVE channel becomes STALE. An OFF channel's timer is unloaded already (R137, log 16). -/
def Channel.expired (ch : Channel) : Channel :=
  match ch.state with
  | .waiting | .live => { ch with state := .stale, ring := [], slot := some .fault, fresh := .unloaded }
  | .stale => { ch with slot := some .fault, fresh := .unloaded }
  | .off => { ch with fresh := .unloaded }

/-- The freshness expiry of channel `c` (R132, R133), with its STALE record (R134). -/
def freshnessExpiry (c : Fin 16) (s : State) : State :=
  let ch := s.channels[c]
  handOverIf (ch.cfg.faultEvents && (ch.state == .waiting || ch.state == .live)) .channelUnit false
    (channelRecord (.stale c) ch none 0) (modChannel c Channel.expired s)

/-- The channel unit takes a tick for channel `c` (R131, R159): the freshness timer is decremented, and the tick that
brings it to zero is the freshness expiry, before which a command that waits for the channel is taken (R120). -/
def channelTick (c : Fin 16) (s : State) : State :=
  if s.due.channels[c] = 0 then s
  else
    let s1 := { s with due := { s.due with channels := s.due.channels.set c (s.due.channels[c] - 1) } }
    if s.channels[c].fresh.expiring then freshnessExpiry c (takeChannelCommand c s1)
    else modChannel c (fun ch => { ch with fresh := ch.fresh.tick }) s1

/-- FRESHNESS_EXPIRY (R132, R133): the channel unit takes the tick that brings the freshness timer of channel `c` to zero.
The fault item is a claim, which a free engine takes at once (R34). -/
def execFreshnessExpiry (c : Fin 16) (s : State) : Host.Outcome State Fault Refusal :=
  .next (if s.channels[c].fresh.expiring then chooseWork (channelTick c s) else s)

/-! ## Arrivals -/

/-- The outcome of an arrival (R121). -/
def Channel.decide (fromPort : Bool) (ch : Channel) : ArrivalOutcome :=
  if ch.state == .off then .refusedOff
  else
    match ch.cfg.source with
    | .port => if fromPort then .accepted else .refusedSource
    | .host => if fromPort then .refusedSource else .accepted
    | .either => .accepted

/-- Whether an item is a sample item. -/
def isSample : Option Item → Bool
  | some (.sample _ _) => true
  | some .fault | none => false

/-- An accepted arrival (R122). -/
def Channel.accept (raw : Half) (status : SampleStatus) (ch : Channel) : Channel :=
  { ch with
    overruns := if isSample ch.slot then satInc ch.overruns else ch.overruns
    slot := some (.sample raw status)
    fresh := freshLoad ch.cfg.freshWindow
    arrivals := ch.arrivals + 1 }

/-- The channel unit takes an arrival for channel `c` (R121, R122), after the command that waits there for `c` (R120): the
outcome, and the state after it. -/
def takeArrival (fromPort : Bool) (c : Fin 16) (raw : Half) (status : SampleStatus) (s : State) :
    ArrivalOutcome × State :=
  let s1 := takeChannelCommand c s
  let outcome := s1.channels[c].decide fromPort
  (outcome, if outcome == .accepted then modChannel c (Channel.accept raw status) s1 else s1)

/-- ARRIVAL (R122): the channel unit takes the oldest arrival the sample port has delivered; its outcome goes back to the
port (R148), and a free engine takes the item at once (R34). -/
def execArrival (s : State) : Host.Outcome State Fault Refusal :=
  match s.port.delivered with
  | [] => .next s
  | a :: rest =>
    let r := takeArrival true a.channel a.raw a.status { s with port := { s.port with delivered := rest } }
    .next (chooseWork { r.2 with port := { r.2.port with outcomes := r.2.port.outcomes ++ [r.1] } })

/-! ## Settling -/

/-- The corrected value (R125): the raw value less zero_offset, exact and then saturated. -/
def corrected (cfg : ChannelConfig) (raw : Half) : Half :=
  sat16 (raw.toInt - cfg.zeroOffset.toInt)

/-- The value that enters the ring, `none` when the item settles as invalid (R125). -/
def entering (cfg : ChannelConfig) (raw : Half) : SampleStatus → Option Half
  | .good => some (corrected cfg raw)
  | .overHigh => if cfg.overrangeAsLimit then some 0x7FFF else none
  | .overLow => if cfg.overrangeAsLimit then some 0x8000 else none
  | .fault => none

/-- The ring with a value entered at the newest end; the oldest drops out when it was full (R126). -/
def ringWith (size : Nat) (ring : List Half) (x : Half) : List Half :=
  (ring ++ [x]).drop (ring.length + 1 - size)

/-- The average of a ring, truncated toward zero (R126). -/
def average (ring : List Half) : Half :=
  BitVec.ofInt 16 (Int.tdiv (ring.map BitVec.toInt).sum ring.length)

/-- State after the settling of a sample item (R128). -/
def ChannelState.afterSample : ChannelState → ChannelState
  | .off => .off
  | .waiting | .live | .stale => .live

/-- The channel after a good settling of `x` (R126, R128). -/
def Channel.settledGood (raw : Half) (status : SampleStatus) (x : Half) (ch : Channel) : Channel :=
  let ring := ringWith ch.cfg.avgLen.size ch.ring x
  { ch with
    lastRaw := raw, lastStatus := status, ring := ring, value := average ring, quality := .good,
    state := ch.state.afterSample }

/-- The channel after an invalid settling (R127, R128). -/
def Channel.settledInvalid (raw : Half) (status : SampleStatus) (ch : Channel) : Channel :=
  { ch with lastRaw := raw, lastStatus := status, quality := .invalid, state := ch.state.afterSample }

/-- Settling of a sample item (R125 to R129): the input it gives the bound entries, and the state after it. -/
def settleSample (c : Fin 16) (raw : Half) (status : SampleStatus) (s : State) : EvalInput × State :=
  let ch := s.channels[c]
  match entering ch.cfg raw status with
  | some x =>
    let ch1 := ch.settledGood raw status x
    (.good ch1.value,
      handOverIf (ch.cfg.faultEvents && (ch.state == .stale || ch.quality == .invalid)) .channelUnit false
        (channelRecord (.fresh c) ch (some ch1.value) 0) (modChannel c (Channel.settledGood raw status x) s))
  | none =>
    (.fault,
      handOverIf (ch.cfg.faultEvents && (ch.state == .stale || ch.quality == .good)) .channelUnit false
        (channelRecord (.invalid c) ch (some (corrected ch.cfg raw)) (BitVec.ofNat 4 status.code))
        (modChannel c (Channel.settledInvalid raw status) s))

/-- Settling of a taken item (R125, R130): a fault item changes nothing and gives fault input. -/
def settle (c : Fin 16) (item : Item) (s : State) : EvalInput × State :=
  match item with
  | .sample raw status => settleSample c raw status s
  | .fault => (.fault, s)

/-! ## ENABLE, DISABLE and RESTART -/

/-- A channel as ENABLE leaves it (R136). -/
def Channel.enabled (ch : Channel) : Channel :=
  { ch with
    state := .waiting, ring := [], slot := none, quality := .good, value := 0, lastRaw := 0, lastStatus := .good,
    overruns := 0, arrivals := 0, fresh := freshLoad ch.cfg.freshWindow }

/-- A channel as DISABLE leaves it (R137). -/
def Channel.disabled (ch : Channel) : Channel :=
  { ch with state := .off, ring := [], slot := none, fresh := .unloaded }

/-- A channel as RESTART leaves it (R141). -/
def Channel.restarted (ch : Channel) : Channel :=
  match ch.state with
  | .off => { ch with overruns := 0, arrivals := 0 }
  | .waiting | .live | .stale => ch.enabled

/-- An armed entry is bound to channel `c` (R39). -/
def channelInUse (c : Fin 16) (s : State) : Bool :=
  (List.finRange 32).any fun n => s.entries[n].state != .disarmed && s.entries[n].cfg.channel == c

/-- ENABLE (R136, R39). -/
def execEnable (s : State) : Host.Outcome State Fault Refusal :=
  if tableReady .enable s then
    match channelArg s with
    | none => .next (endService .badIndex s)
    | some c =>
      if s.channels[c].state != .off then .next (endService .already s)
      else .next (endService .ok (modChannel c Channel.enabled s))
  else .next s

/-- DISABLE (R137, R39). -/
def execDisable (s : State) : Host.Outcome State Fault Refusal :=
  if tableReady .disable s then
    match channelArg s with
    | none => .next (endService .badIndex s)
    | some c =>
      if channelInUse c s then .next (endService .inUse s)
      else if s.channels[c].state == .off then .next (endService .already s)
      else .next (endService .ok (modChannel c Channel.disabled s))
  else .next s

end Sys2Proof.Machine
end

