-- ==== Sys2Proof/Machine/Conditions.lean ====
section
/-! DEFINITION. Trip conditions (chapter 2): the effective limit, the activation and release tests of the eight
combinations, exact arithmetic. -/

namespace Sys2Proof.Machine

/-- The effective limit (R19): the own limit, or the tracked entry's stored limit plus track_offset, saturated. -/
def effectiveLimit (entries : Vector Entry 32) (c : EntryConfig) : Half :=
  match c.track with
  | none => c.limit
  | some t => sat16 (entries[t].cfg.limit.toInt + c.trackOffset.toInt)

/-- The activation test (Tables 2-3 and 2-4) on exact integers: `L` the effective limit, `v` the channel value (R21). -/
def activates (c : EntryConfig) (L v : Int) : Bool :=
  let h : Int := c.hysteresis.toNat
  let w : Int := c.band.toNat
  let d : Int := |v - L|
  match c.compare, c.hystSide with
  | .above, .releaseSide => v ≥ L
  | .above, .tripSide => v > L + h
  | .below, .releaseSide => v < L
  | .below, .tripSide => v < L - h
  | .inside, .releaseSide => d ≤ w
  | .inside, .tripSide => d ≤ w - h
  | .outside, .releaseSide => d > w
  | .outside, .tripSide => d > w + h

/-- The release test (Tables 2-3 and 2-4). -/
def releases (c : EntryConfig) (L v : Int) : Bool :=
  let h : Int := c.hysteresis.toNat
  let w : Int := c.band.toNat
  let d : Int := |v - L|
  match c.compare, c.hystSide with
  | .above, .releaseSide => v < L - h
  | .above, .tripSide => v ≤ L
  | .below, .releaseSide => v ≥ L + h
  | .below, .tripSide => v ≥ L
  | .inside, .releaseSide => d > w + h
  | .inside, .tripSide => d > w
  | .outside, .releaseSide => d ≤ w - h
  | .outside, .tripSide => d ≤ w

/-- The condition of a good-value evaluation (R22): the activation test while the stored flag is inactive, the release
test while it is active. -/
def newCondition (c : EntryConfig) (stored : Bool) (L v : Int) : Bool :=
  if stored then !releases c L v else activates c L v

/-- The check of R8: hysteresis does not exceed band where the hysteresis lies inside the band. -/
def hysteresisFits (c : EntryConfig) : Bool :=
  match c.compare, c.hystSide with
  | .inside, .tripSide | .outside, .releaseSide => c.hysteresis.toNat ≤ c.band.toNat
  | _, _ => true

end Sys2Proof.Machine
end

