-- ==== Sys2Proof/Machine/Lines.lean ====
section
/-! DEFINITION. The output unit (chapter 5): contribution sets, demand, want, hold, exclusive pairs, cutoff, the pins, and
the line commands. -/

namespace Sys2Proof.Machine

/-! ## Pairs and pins -/

/-- The other line of a line's pair (R82). -/
def partner (l : Fin 16) : Fin 16 :=
  if h : l.val % 2 = 0 then ⟨l.val + 1, by omega⟩ else ⟨l.val - 1, by omega⟩

/-- The pair of a line (R82). -/
def pairOf (l : Fin 16) : Fin 8 :=
  ⟨l.val / 2, by omega⟩

/-- The pair's exclusive flag (R82). -/
def isExclusive (l : Fin 16) (s : State) : Bool :=
  s.exclusive[pairOf l]

/-- The pin follows hold, OE and cut (R102). -/
def Line.withPin (oe : Bool) (ln : Line) : Line :=
  { ln with pinActive := ln.hold && oe && !ln.cut }

/-- Set every pin from its line (R102). -/
def refreshPins (s : State) : State :=
  { s with lines := mapVec (Line.withPin s.oe) s.lines }

/-- The electrical level of pin `l`, `true` for high (R102, R181). -/
def outLevel (s : State) (l : Fin 16) : Bool :=
  match s.lines[l].polarity with
  | .activeHigh => s.lines[l].pinActive
  | .activeLow => !s.lines[l].pinActive

/-- At least one line is cut (R98). -/
def anyCut (s : State) : Bool :=
  (List.finRange 16).any fun l => s.lines[l].cut

/-! ## Want and hold -/

/-- Want from override, demand and silence (R92). -/
def Line.wants (ln : Line) : Bool :=
  match ln.override with
  | .auto => ln.demand && !ln.silenced
  | .forceOn => true
  | .forceOff => false

/-- The CONFLICT record of line `l` (R97). -/
def conflictRecord (l : Fin 16) (ln : Line) : RecordBody :=
  { kind := .conflict l, severity := ln.conflictSeverity, byRelease := false, valuePresent := false, fromTimer := false,
    value := 0, aux := 0 }

/-- Want rises (R95): the line takes hold, or is blocked by its exclusive partner's hold, with a CONFLICT record when
conflict_event is set, `loose` when a contribution change of the engine's work item raises want (R97, log 8). -/
def raiseWant (loose : Bool) (l : Fin 16) (s : State) : State :=
  if isExclusive l s && s.lines[partner l].hold then
    handOverIf s.lines[l].conflictEvent .outputUnit loose (conflictRecord l s.lines[l])
      (modLine l (fun ln => Line.withPin s.oe { ln with want := true, blocked := true }) s)
  else modLine l (fun ln => Line.withPin s.oe { ln with want := true, hold := true }) s

/-- A blocked line takes hold without a record (R96, R106). -/
def takeOver (l : Fin 16) (s : State) : State :=
  modLine l (fun ln => if ln.blocked then Line.withPin s.oe { ln with blocked := false, hold := true } else ln) s

/-- Want falls (R96): hold and blocked clear, and if the line held, its blocked exclusive partner takes hold. -/
def dropWant (l : Fin 16) (s : State) : State :=
  let s1 := modLine l (fun ln => Line.withPin s.oe { ln with want := false, hold := false, blocked := false }) s
  if s.lines[l].hold && isExclusive l s then takeOver (partner l) s1 else s1

/-- Recompute want after a change of demand, silence or override, with what follows (R92, R95, R96). -/
def updateWant (loose : Bool) (l : Fin 16) (s : State) : State :=
  if s.lines[l].wants == s.lines[l].want then s
  else if s.lines[l].wants then raiseWant loose l s else dropWant l s

/-- Some entry contributes (R91). -/
def anyContrib (v : Vector Bool 32) : Bool :=
  (List.finRange 32).any fun n => v[n]

/-- A contribution set with entry `n` in it or out of it, and demand with it; a fall of demand ends a silence (R91,
R94). -/
def Line.withContrib (n : Fin 32) (b : Bool) (ln : Line) : Line :=
  let set := ln.contrib.set n b
  let demand := anyContrib set
  { ln with contrib := set, demand := demand, silenced := if ln.demand && !demand then false else ln.silenced }

/-- One contribution change of entry `n` on line `l`, carried through to the pins (R84). -/
def setContrib (l : Fin 16) (n : Fin 32) (b : Bool) (s : State) : State :=
  updateWant true l (modLine l (Line.withContrib n b) s)

/-! ## Line commands -/

/-- The line the captured argument names. -/
def lineArg (s : State) : Option (Fin 16) :=
  indexOf 16 s.cmd.captured0

/-- READ_LINE as the output unit serves it (R104). -/
def serveReadLine (s : State) : State :=
  match lineArg s with
  | none => complete .badIndex s
  | some l =>
    complete .ok { s with staging := lineImage s.lines[l] (isExclusive l s) (s.queue.marks.get (.conflict l)) }

/-- The checks 2 to 4 of R105 on a proposal for line `l`. -/
def lineRefusal (l : Fin 16) (p : LineProposal) (s : State) : Option Result :=
  let changes := p.cutMember != s.lines[l].cutMember
  if changes && s.shutoff then some .shutoffActive
  else if changes && anyCut s then some .cutActive
  else if p.exclusive && s.lines[l].hold && s.lines[partner l].hold then some .pairBusy
  else none

/-- The effect of a WRITE_LINE that passes its checks (R106). -/
def storeLine (l : Fin 16) (p : LineProposal) (s : State) : State :=
  let s1 := modLine l (fun ln => { ln with
    polarity := p.polarity, cutMember := p.cutMember, conflictEvent := p.conflictEvent,
    conflictSeverity := p.conflictSeverity }) s
  let s2 := { s1 with exclusive := s1.exclusive.set (pairOf l) p.exclusive }
  if isExclusive l s && !p.exclusive then takeOver (partner l) (takeOver l s2) else s2

/-- WRITE_LINE as the output unit serves it (R105, R106). -/
def serveWriteLine (s : State) : State :=
  match lineArg s with
  | none => complete .badIndex s
  | some l =>
    let p := parseLine s.cmd.seen[0]
    match lineRefusal l p s with
    | some r => complete r s
    | none => complete .ok (storeLine l p s)

/-- SILENCE as the output unit serves it (R94). -/
def serveSilence (s : State) : State :=
  match lineArg s with
  | none => complete .badIndex s
  | some l =>
    if !s.lines[l].demand || s.lines[l].override != .auto then complete .noDemand s
    else complete .ok (updateWant false l (modLine l (fun ln => { ln with silenced := true }) s))

/-- A line with a new override; leaving AUTO ends a silence (R93). -/
def Line.withOverride (m : Override) (ln : Line) : Line :=
  { ln with override := m, silenced := if ln.override == .auto && m != .auto then false else ln.silenced }

/-- OVERRIDE as the output unit serves it (R93). -/
def serveOverride (s : State) : State :=
  match lineArg s with
  | none => complete .badIndex s
  | some l =>
    match Override.ofCode s.cmd.captured1.toNat with
    | none => complete .badField s
    | some m => complete .ok (updateWant false l (modLine l (Line.withOverride m) s))

/-- RESUME as the output unit serves it (R101). -/
def serveResume (s : State) : State :=
  if s.shutoff then complete .shutoffActive s
  else complete .ok (refreshPins { s with lines := mapVec (fun ln => { ln with cut := false }) s.lines })

/-- The line command that waits with the output unit is taken, if there is one: it reached the unit at its CMD_OP write,
before the event that is to come (R84, R167, log 12). -/
def takeLineCommand (s : State) : State :=
  if ready .readLine s then serveReadLine s
  else if ready .writeLine s then serveWriteLine s
  else if ready .silence s then serveSilence s
  else if ready .override s then serveOverride s
  else if ready .resume s then serveResume s
  else s

/-- READ_LINE (R104). -/
def execReadLine (s : State) : Host.Outcome State Fault Refusal :=
  .next (if ready .readLine s then serveReadLine s else s)

/-- WRITE_LINE (R105, R106). -/
def execWriteLine (s : State) : Host.Outcome State Fault Refusal :=
  .next (if ready .writeLine s then serveWriteLine s else s)

/-- SILENCE (R94). -/
def execSilence (s : State) : Host.Outcome State Fault Refusal :=
  .next (if ready .silence s then serveSilence s else s)

/-- OVERRIDE (R93). -/
def execOverride (s : State) : Host.Outcome State Fault Refusal :=
  .next (if ready .override s then serveOverride s else s)

/-- RESUME (R101). -/
def execResume (s : State) : Host.Outcome State Fault Refusal :=
  .next (if ready .resume s then serveResume s else s)

/-! ## What the engine hands over -/

/-- Direction of an edge (R14). -/
inductive Direction where
  | trip
  | clear
  deriving DecidableEq, Repr

/-- The contribution step of an edge of entry `n` (R15), by its shaping mode (R85, R86, R88). It reaches the output unit
behind the line command that waits there (R84). -/
def contributionStep (n : Fin 32) (dir : Direction) (s : State) : State :=
  let c := s.entries[n].cfg
  match c.output with
  | none => s
  | some l =>
    let u := takeLineCommand s
    match c.shaping, dir with
    | .level, .trip => setContrib l n true u
    | .level, .clear => setContrib l n false u
    | .pulse, .trip => setContrib l n true (modEntry n (Entry.loadShape c.shapeTicks) u)
    | .pulse, .clear => u
    | .blink, .trip =>
      setContrib l n true (modEntry n (fun e => Entry.loadShape c.shapeTicks { e with phase := true }) u)
    | .blink, .clear => setContrib l n false (modEntry n (fun e => Entry.cancelShape { e with phase := false }) u)

/-- A live shaping expiry of entry `n` (R44): it ends a pulse (R87) or toggles a blink phase and reloads the timer (R89),
behind the line command that waits with the output unit (R84).
A LEVEL entry and an entry with no output never load the timer (R85); such a timer is only unloaded (log 16). -/
def shapingExpiry (n : Fin 32) (s : State) : State :=
  let e := s.entries[n]
  match e.cfg.output, e.cfg.shaping with
  | some l, .pulse => setContrib l n false (modEntry n (fun e => { e with shape := .unloaded }) (takeLineCommand s))
  | some l, .blink =>
    setContrib l n (!e.phase)
      (modEntry n (fun e => { e with shape := .running e.cfg.shapeTicks, phase := !e.phase }) (takeLineCommand s))
  | _, _ => modEntry n (fun e => { e with shape := .unloaded }) s

/-- Withdrawal of entry `n` (R90): the shaping timer is cancelled, the phase is OFF, the contribution is removed. It is
part of a table command, so no line command waits with the output unit. -/
def withdraw (n : Fin 32) (s : State) : State :=
  let s1 := modEntry n (fun e => Entry.cancelShape { e with phase := false }) s
  match s.entries[n].cfg.output with
  | some l => setContrib l n false s1
  | none => s1

/-! ## OE and SHUTOFF# -/

/-- A change of OE as the output unit takes it (R102), behind the line command that waits there (R84). -/
def writeOe (b : Bool) (s : State) : State :=
  if b == s.oe then s else refreshPins { takeLineCommand s with oe := b }

/-- The CUTOFF record (R99). -/
def cutoffRecord : RecordBody :=
  { kind := .cutoff, severity := 3, byRelease := false, valuePresent := false, fromTimer := false, value := 0, aux := 0 }

/-- A line at an assertion of SHUTOFF# (R99). -/
def Line.cutOff (ln : Line) : Line :=
  { ln with cut := ln.cut || ln.cutMember }

/-- The output unit takes an assertion of SHUTOFF# (R99): it cuts the members, hands over CUTOFF and requests the
interrupt. -/
def assertShutoff (s : State) : State :=
  request .cutoff (handOver .outputUnit false cutoffRecord
    (refreshPins { s with shutoff := true, lines := mapVec Line.cutOff s.lines }))

/-- SHUTOFF_ASSERT (R99): a fall of SHUTOFF#, behind the line command that waits with the output unit (R84). During
power-on reset only the level changes (R100); a level already low cannot fall. -/
def execShutoffAssert (s : State) : Host.Outcome State Fault Refusal :=
  if s.shutoff then .next s
  else if s.inReset then .next { s with shutoff := true }
  else .next (assertShutoff (takeLineCommand s))

/-- SHUTOFF_RELEASE (R100): a rise of SHUTOFF#, behind the line command that waits with the output unit (R84), changes no
line. A level already high cannot rise. -/
def execShutoffRelease (s : State) : Host.Outcome State Fault Refusal :=
  .next (if s.shutoff then { takeLineCommand s with shutoff := false } else s)

/-! ## RESTART -/

/-- A line after RESTART (R107): configuration and cut are kept. -/
def Line.restarted (ln : Line) : Line :=
  { ln with
    contrib := Vector.replicate 32 false, demand := false, override := .auto, silenced := false, want := false,
    hold := false, blocked := false, pinActive := false }

end Sys2Proof.Machine
end

