-- ==== Sys2Proof/Machine/Entries.lean ====
section
/-! DEFINITION. The evaluation engine (chapters 1 and 3): edges and their effects, the entry state machine, evaluations,
expiries, and the table commands on entries. -/

namespace Sys2Proof.Machine

/-! ## Edges (R14 to R17) -/

/-- What an edge of an entry carries (R14). -/
structure Edge where
  dir : Direction
  value : Option Half
  fromTimer : Bool
  byRelease : Bool
  deriving DecidableEq, Repr

/-- Whether the entry's capture_edge matches the direction (R16). -/
def CaptureEdge.fits : CaptureEdge → Direction → Bool
  | .trip, .trip | .clear, .clear | .both, _ => true
  | .trip, .clear | .clear, .trip => false

/-- The capture step (R16): handed over when capture_acc names an accumulator and capture_edge matches. -/
def captureHandOver (n : Fin 32) (g : Edge) (s : State) : State :=
  let e := s.entries[n]
  match e.cfg.captureAcc with
  | none => s
  | some a =>
    if e.cfg.captureEdge.fits g.dir then
      { s with captures := s.captures ++ [.step
          { acc := a, action := e.cfg.captureAction, const := e.cfg.captureConst, value := g.value, limit := e.effLimit }] }
    else s

/-- The TRIP or CLEAR record of an edge (R17). -/
def edgeRecord (n : Fin 32) (e : Entry) (g : Edge) : RecordBody :=
  { kind := match g.dir with | .trip => .trip n | .clear => .clear n
    severity := e.cfg.severity
    byRelease := g.byRelease
    valuePresent := g.value.isSome
    fromTimer := g.fromTimer
    value := g.value.getD 0
    aux := BitVec.ofNat 4 e.cfg.channel.val }

/-- Whether the entry's event mask admits a record of the edge (R17). -/
def recordWanted (e : Entry) : Direction → Bool
  | .trip => e.cfg.eventTrip
  | .clear => e.cfg.eventClear

/-- The record step (R17). The record is one of the work item's own, `loose` (R65, log 8). -/
def recordStep (n : Fin 32) (g : Edge) (s : State) : State :=
  handOverIf (recordWanted s.entries[n] g.dir) .engine true (edgeRecord n s.entries[n] g) s

/-- The trip count at an edge: one more at a trip edge, saturating (R14, R52). -/
def Entry.counted (dir : Direction) (e : Entry) : Entry :=
  match dir with
  | .trip => { e with tripCount := satInc e.tripCount }
  | .clear => e

/-- An edge of entry `n` (R14): the trip count, then the contribution, capture and record steps, in this order. -/
def edge (n : Fin 32) (g : Edge) (s : State) : State :=
  recordStep n g (captureHandOver n g (contributionStep n g.dir (modEntry n (Entry.counted g.dir) s)))

/-- Change the state of entry `n` and produce an edge (R52). -/
def moveWithEdge (n : Fin 32) (st : EntryState) (g : Edge) (s : State) : State :=
  edge n g (modEntry n (fun e => { e with state := st }) s)

/-! ## The state machine (R45 to R51) -/

/-- The transition of entry `n` on an active (`true`) or inactive input; `v` is the edge value (R45). -/
def transition (n : Fin 32) (active : Bool) (v : Option Half) (s : State) : State :=
  let e := s.entries[n]
  match e.state, active with
  | .disarmed, _ => s
  | .inhibited, true => s
  | .inhibited, false => modEntry n (fun e => { e with state := .normal }) s
  | .normal, true =>
    if e.cfg.onDelay = 0 then
      moveWithEdge n .tripped { dir := .trip, value := v, fromTimer := false, byRelease := false } s
    else modEntry n (fun e => Entry.loadQual e.cfg.onDelay { e with state := .pendingTrip }) s
  | .normal, false => s
  | .pendingTrip, true => s
  | .pendingTrip, false => modEntry n (fun e => Entry.cancelQual { e with state := .normal }) s
  | .tripped, true => s
  | .tripped, false =>
    if e.cfg.latch then modEntry n (fun e => { e with state := .held }) s
    else if e.cfg.offDelay = 0 then
      moveWithEdge n .normal { dir := .clear, value := v, fromTimer := false, byRelease := false } s
    else modEntry n (fun e => Entry.loadQual e.cfg.offDelay { e with state := .pendingClear }) s
  | .pendingClear, true => modEntry n (fun e => Entry.cancelQual { e with state := .tripped }) s
  | .pendingClear, false => s
  | .held, true => modEntry n (fun e => { e with state := .tripped }) s
  | .held, false => s

/-- Entry `n` handled for a good value (R28): effective limit, condition and last value, then the transition. -/
def handleGood (n : Fin 32) (v : Half) (s : State) : State :=
  let e := s.entries[n]
  let limit := effectiveLimit s.entries e.cfg
  let cond := newCondition e.cfg e.condition limit.toInt v.toInt
  transition n cond (some v)
    (modEntry n (fun e => { e with effLimit := limit, condition := cond, lastValue := some v }) s)

/-- Entry `n` handled for fault input (R29 to R33). -/
def handleFault (n : Fin 32) (s : State) : State :=
  let e := s.entries[n]
  let s1 := modEntry n (fun e => { e with effLimit := effectiveLimit s.entries e.cfg, lastValue := none }) s
  if e.state == .inhibited then s1
  else
    match e.cfg.faultPolicy with
    | .hold => s1
    | .trip => transition n true none (modEntry n (fun e => { e with condition := true }) s1)
    | .clear => transition n false none (modEntry n (fun e => { e with condition := false }) s1)

/-- Entry `n` handled whole within an evaluation (R18, R37 step 4). -/
def handleEntry (n : Fin 32) (input : EvalInput) (s : State) : State :=
  match input with
  | .good v => handleGood n v s
  | .fault => handleFault n s

/-! ## Evaluations (R37) -/

/-- Entry `n` is bound to channel `c` (R37 step 3). -/
def isBound (c : Fin 16) (n : Fin 32) (s : State) : Bool :=
  s.entries[n].state != .disarmed && s.entries[n].cfg.channel == c

/-- The first entry bound to channel `c` from index `k` on. -/
def nextBound (c : Fin 16) (k : Nat) (s : State) : Option (Fin 32) :=
  (List.finRange 32).find? fun n => k ≤ n.val && isBound c n s

/-- The channel unit settles the item the engine has taken (R37 step 2), after the command that waits there for the
channel (R120); its entries are to be handled next. -/
def settleTaken (c : Fin 16) (item : Item) (s : State) : State :=
  let r := settle c item (takeChannelCommand c s)
  { r.2 with engine := .handling c r.1 0 }

/-- One event of an evaluation: the settling, the handling of the next bound entry, or, when none is left, the end, which
is the moment the engine comes free (R37, R38). -/
def evaluationStep (s : State) : State :=
  match s.engine with
  | .settling c item => settleTaken c item s
  | .handling c input k =>
    match nextBound c k s with
    | none => comeFree s
    | some n => { handleEntry n input s with engine := .handling c input (n.val + 1) }
  | .free | .taken _ | .ending | .releasing _ _ | .restarting _ _ _ _ _ => s

/-- What is left of the evaluation in progress after its settling, at most `fuel` events. -/
def evaluationRest : Nat → State → State
  | 0, s => s
  | fuel + 1, s =>
    match s.engine with
    | .handling _ _ _ => evaluationRest fuel (evaluationStep s)
    | .free | .taken _ | .settling _ _ | .ending | .releasing _ _ | .restarting _ _ _ _ _ => s

/-- All that is left of the evaluation in progress (R37): it goes to its end and no further, whatever the engine takes
then. -/
def evaluationFinish (s : State) : State :=
  match s.engine with
  | .settling c item => evaluationRest 33 (settleTaken c item s)
  | .handling _ _ _ => evaluationRest 33 s
  | .free | .taken _ | .ending | .releasing _ _ | .restarting _ _ _ _ _ => s

/-- EVALUATION (R37): one event of it, or all that is left: a settling, at most 32 entries, and the end. -/
def execEvaluation (x : Extent) (s : State) : Host.Outcome State Fault Refusal :=
  match x with
  | .advance => .next (evaluationStep s)
  | .finish => .next (evaluationFinish s)

/-! ## Expiries (R42 to R44) -/

/-- A live qualification expiry of entry `n` (R43): the timer is unloaded and the entry leaves its pending state with an
edge that carries FROM_TIMER and the last value. By R40 no other state has a loaded timer (log 16). -/
def qualificationExpiry (n : Fin 32) (s : State) : State :=
  let e := s.entries[n]
  let s1 := modEntry n (fun e => { e with qual := .unloaded }) s
  match e.state with
  | .pendingTrip => moveWithEdge n .tripped { dir := .trip, value := e.lastValue, fromTimer := true, byRelease := false } s1
  | .pendingClear => moveWithEdge n .normal { dir := .clear, value := e.lastValue, fromTimer := true, byRelease := false } s1
  | .disarmed | .inhibited | .normal | .tripped | .held => s1

/-- The effect of the qualification expiry of entry `n` that the engine has taken (R42, R43): of a void claim, which goes
first, none but that it is done with; of a live one, the entry moves on. -/
def serveQualification (n : Fin 32) (s : State) : State :=
  if s.entries[n].qualVoid ≠ 0 then modEntry n (fun e => { e with qualVoid := e.qualVoid - 1 }) s
  else if s.entries[n].qual = .expired then qualificationExpiry n s
  else s

/-- The effect of the shaping expiry of entry `n` that the engine has taken (R42, R44), as above; a live one goes to the
output unit. -/
def serveShaping (n : Fin 32) (s : State) : State :=
  if s.entries[n].shapeVoid ≠ 0 then modEntry n (fun e => { e with shapeVoid := e.shapeVoid - 1 }) s
  else if s.entries[n].shape = .expired then shapingExpiry n s
  else s

/-- Between `s` and `t` a contribution step has raised a CONFLICT and the engine has handed over its own record: another
submitter's record may fall between the two (R65, R97, log 8). -/
def recordsPart (s t : State) : Bool :=
  let new := t.waiting.drop s.waiting.length
  (new.any fun w => w.loose && w.submitter == .outputUnit) && new.any fun w => w.submitter == .engine

/-- The engine has handled the qualification expiry of entry `n` that it has taken (R42, R43): its work item ends, or, where
other submitters' records may fall between those of the expiry, is still to end. -/
def handleQualification (n : Fin 32) (s : State) : State :=
  let t := serveQualification n s
  if recordsPart s t then { t with engine := .ending } else comeFree t

/-- QUALIFICATION_EXPIRY_TAKEN (R43, R42): the engine handles the qualification expiry it has taken, and comes free; or it
comes free after the expiry whose work item was still to end. -/
def execQualificationExpiryTaken (s : State) : Host.Outcome State Fault Refusal :=
  match s.engine with
  | .taken (.expiry n .qualification) => .next (handleQualification n s)
  | .ending => .next (comeFree s)
  | .free | .taken (.expiry _ .shaping) | .taken .table | .settling _ _ | .handling _ _ _ | .releasing _ _
  | .restarting _ _ _ _ _ => .next s

/-- SHAPING_EXPIRY_TAKEN (R44, R42): the engine handles the shaping expiry it has taken, and comes free. -/
def execShapingExpiryTaken (s : State) : Host.Outcome State Fault Refusal :=
  match s.engine with
  | .taken (.expiry n .shaping) => .next (comeFree (serveShaping n s))
  | .free | .taken (.expiry _ .qualification) | .taken .table | .settling _ _ | .handling _ _ _ | .ending
  | .releasing _ _ | .restarting _ _ _ _ _ => .next s

/-! ## Table commands on entries -/

/-- The entry the captured argument names. -/
def entryArg (s : State) : Option (Fin 32) :=
  indexOf 32 s.cmd.captured0

/-- READ_ENTRY (R5). -/
def execReadEntry (s : State) : Host.Outcome State Fault Refusal :=
  if tableReady .readEntry s then
    match entryArg s with
    | none => .next (endService .badIndex s)
    | some n => .next (endService .ok { s with staging := entryImage s.entries[n] (s.queue.marks.get (.trip n)) })
  else .next s

/-- The fields other than the nine retune fields are equal (R11). -/
def sameFixed (a b : EntryConfig) : Bool :=
  { a with
    limit := b.limit, band := b.band, hysteresis := b.hysteresis, trackOffset := b.trackOffset, onDelay := b.onDelay,
    offDelay := b.offDelay, severity := b.severity, eventTrip := b.eventTrip, eventClear := b.eventClear } == b

/-- The tracking check of R9 for a proposed track of entry `n`. -/
def trackFits (n : Fin 32) (t : Option (Fin 32)) (s : State) : Bool :=
  match t with
  | none => true
  | some t =>
    t != n && s.entries[t].cfg.track.isNone
      && !((List.finRange 32).any fun m => m != n && s.entries[m].cfg.track == some n)

/-- The result of WRITE_ENTRY `n` with a proposal that passes the range check: checks 3 to 5 of Table 1-4 in order. -/
def writeEntryRefusal (n : Fin 32) (c : EntryConfig) (s : State) : Option Result :=
  if !hysteresisFits c then some .badField
  else if s.entries[n].state != .disarmed && !sameFixed s.entries[n].cfg c then some .armed
  else if !trackFits n c.track s then some .trackDepth
  else none

/-- WRITE_ENTRY (R6 to R12). When every check passes the stored configuration becomes the proposed one: on an armed entry
only the retune fields can differ, by check 4 (R12). -/
def execWriteEntry (s : State) : Host.Outcome State Fault Refusal :=
  if tableReady .writeEntry s then
    match entryArg s with
    | none => .next (endService .badIndex s)
    | some n =>
      match parseEntry s.cmd.seen with
      | none => .next (endService .badField s)
      | some c =>
        match writeEntryRefusal n c s with
        | some r => .next (endService r s)
        | none => .next (endService .ok (modEntry n (fun e => { e with cfg := c }) s))
  else .next s

/-- An entry in its arm-time state (R53): both timers unloaded, what waited of their claims void. -/
def Entry.armTime (limit : Half) (e : Entry) : Entry :=
  Entry.cancelShape (Entry.cancelQual { e with
    state := if e.cfg.startInhibit then .inhibited else .normal
    condition := false
    tripCount := 0
    lastValue := none
    effLimit := limit
    phase := false })

/-- ARM (R53). -/
def execArm (s : State) : Host.Outcome State Fault Refusal :=
  if tableReady .arm s then
    match entryArg s with
    | none => .next (endService .badIndex s)
    | some n =>
      let e := s.entries[n]
      if e.state != .disarmed then .next (endService .already s)
      else if s.channels[e.cfg.channel].state == .off then .next (endService .channelOff s)
      else .next (endService .ok (modEntry n (Entry.armTime (effectiveLimit s.entries e.cfg)) s))
  else .next s

/-- DISARM (R54): silent; both timers are cancelled and the contribution is withdrawn (R90). -/
def execDisarm (s : State) : Host.Outcome State Fault Refusal :=
  if tableReady .disarm s then
    match entryArg s with
    | none => .next (endService .badIndex s)
    | some n =>
      if s.entries[n].state == .disarmed then .next (endService .notArmed s)
      else .next (endService .ok (withdraw n (modEntry n (fun e => Entry.cancelQual { e with state := .disarmed }) s)))
  else .next s

/-- The release of a HELD entry `n` (R55): NORMAL, with a clear edge that carries BY_RELEASE and the last value. -/
def releaseEntry (n : Fin 32) (s : State) : State :=
  moveWithEdge n .normal { dir := .clear, value := s.entries[n].lastValue, fromTimer := false, byRelease := true } s

/-- RELEASE (R55). -/
def execRelease (s : State) : Host.Outcome State Fault Refusal :=
  if tableReady .release s then
    match entryArg s with
    | none => .next (endService .badIndex s)
    | some n =>
      match s.entries[n].state with
      | .disarmed => .next (endService .notArmed s)
      | .held => .next (endService .ok (releaseEntry n s))
      | .inhibited | .normal | .pendingTrip | .tripped | .pendingClear => .next (endService .notHeld s)
  else .next s

/-- The first HELD entry from index `k` on. -/
def nextHeld (k : Nat) (s : State) : Option (Fin 32) :=
  (List.finRange 32).find? fun n => k ≤ n.val && s.entries[n].state == .held

/-- One event of RELEASE_ALL (R56): the release of the next HELD entry, or, when there is none, the count in CMD_ARG0 and
the completion. -/
def releaseAllFrom (k count : Nat) (s : State) : State :=
  match nextHeld k s with
  | some n => { releaseEntry n s with engine := .releasing (n.val + 1) (count + 1) }
  | none => endService .ok { s with cmd := { s.cmd with arg0 := BitVec.ofNat 8 count } }

/-- One event of RELEASE_ALL: its beginning when the engine has taken it, or the next of one in progress. -/
def releaseAllStep (s : State) : State :=
  match s.engine with
  | .taken .table => if ready .releaseAll s then releaseAllFrom 0 0 s else s
  | .releasing k count => releaseAllFrom k count s
  | .free | .taken (.expiry _ _) | .settling _ _ | .handling _ _ _ | .ending | .restarting _ _ _ _ _ => s

/-- What is left of a RELEASE_ALL in progress, at most `fuel` events. -/
def releaseAllRest : Nat → State → State
  | 0, s => s
  | fuel + 1, s =>
    match s.engine with
    | .releasing _ _ => releaseAllRest fuel (releaseAllStep s)
    | .free | .taken _ | .settling _ _ | .handling _ _ _ | .ending | .restarting _ _ _ _ _ => s

/-- RELEASE_ALL (R56): one event of it, or all that is left: at most 32 releases and the completion. -/
def execReleaseAll (x : Extent) (s : State) : Host.Outcome State Fault Refusal :=
  match x with
  | .advance => .next (releaseAllStep s)
  | .finish => .next (releaseAllRest 32 (releaseAllStep s))

end Sys2Proof.Machine
end

