-- ==== Sys2Proof/Machine/Port.lean ====
section
/-! DEFINITION. The sample port and injection (chapter 8): frames, checks, counters, routing, PORT_EN, the injection
registers. -/

namespace Sys2Proof.Machine

/-- Change the sample port. -/
def modPort (f : Port → Port) (s : State) : State :=
  { s with port := f s.port }

/-- All four counters at 0 (R150, R154). -/
def Port.countsCleared (p : Port) : Port :=
  { p with marker := 0, parity := 0, length := 0, unrouted := 0 }

/-- CLEAR_PORT_COUNTS as the port serves it (R150). -/
def serveClearPortCounts (s : State) : State :=
  complete .ok (modPort Port.countsCleared s)

/-- CLEAR_PORT_COUNTS is taken if it waits with the port: it reached the port at its CMD_OP write, before the event that
is to come (R144, R167, log 12). -/
def takePortCommand (s : State) : State :=
  if ready .clearPortCounts s then serveClearPortCounts s else s

/-- CLEAR_PORT_COUNTS (R150). -/
def execClearPortCounts (s : State) : Host.Outcome State Fault Refusal :=
  .next (if ready .clearPortCounts s then serveClearPortCounts s else s)

/-! ## Reception -/

/-- The port at a rise of SFRM (R144): in IDLE a frame starts. -/
def Port.frameStart (p : Port) : Port :=
  match p.reception with
  | .idle => { p with reception := .receiving, shiftReg := 0, bitCount := 0 }
  | .disabled | .receiving | .waitLow => p

/-- FRAME_START (R144): a rise of SFRM. During power-on reset the port takes no event (R155); a high level cannot
rise. Each event of the port comes behind the command that waits there. -/
def execFrameStart (s : State) : Host.Outcome State Fault Refusal :=
  if s.sfrm then .next s
  else if s.inReset then .next { s with sfrm := true }
  else .next (modPort Port.frameStart { takePortCommand s with sfrm := true })

/-- The port at a rising edge of SCLK (R145). -/
def Port.sclk (sdat : Bool) (p : Port) : Port :=
  match p.reception with
  | .receiving =>
    if p.bitCount < 24 then
      { p with shiftReg := (p.shiftReg <<< 1) ||| (BitVec.ofBool sdat).setWidth 24, bitCount := p.bitCount + 1 }
    else { p with bitCount := 25 }
  | .disabled | .idle | .waitLow => p

/-- SCLK_RISING_EDGE (R145). -/
def execSclkRisingEdge (sdat : Bool) (s : State) : Host.Outcome State Fault Refusal :=
  .next (if s.inReset then s else modPort (Port.sclk sdat) (takePortCommand s))

/-! ## The end of a frame -/

/-- The first bit of the frame, the marker (Table 8-1). -/
def frameMarker (f : BitVec 24) : Bool :=
  f.getLsbD 23

/-- The number of 1 bits among the 24 (R146). -/
def frameOnes (f : BitVec 24) : Nat :=
  (List.finRange 24).countP fun i => f.getLsbD i.val

/-- The arrival a good frame makes (Table 8-1, R147). -/
def frameArrival (f : BitVec 24) : PortArrival where
  channel := ⟨f.toNat / 2 ^ 19 % 16, Nat.mod_lt _ (by decide)⟩
  raw := (f >>> 1).setWidth 16
  status := SampleStatus.ofCode (f.toNat / 2 ^ 17 % 4)

/-- The errors of a frame (R146): length, and if that is right, marker and parity. -/
def Port.lengthError (p : Port) : Bool :=
  p.bitCount != 24

/-- The marker error of a frame of 24 bits (R146). -/
def Port.markerError (p : Port) : Bool :=
  p.bitCount == 24 && !frameMarker p.shiftReg

/-- The parity error of a frame of 24 bits (R146). -/
def Port.parityError (p : Port) : Bool :=
  p.bitCount == 24 && frameOnes p.shiftReg % 2 == 1

/-- The frame has an error. -/
def Port.badFrame (p : Port) : Bool :=
  p.lengthError || p.markerError || p.parityError

/-- The port after the checks of a frame (R146, R147, R149). -/
def Port.checked (p : Port) : Port :=
  { p with
    reception := .idle
    length := if p.lengthError then satInc p.length else p.length
    marker := if p.markerError then satInc p.marker else p.marker
    parity := if p.parityError then satInc p.parity else p.parity
    delivered := if p.badFrame then p.delivered else p.delivered ++ [frameArrival p.shiftReg] }

/-- The end of a frame, or of a wait for a low SFRM (R146). -/
def endFrame (s : State) : State :=
  match s.port.reception with
  | .receiving => requestIf s.port.badFrame .port (modPort Port.checked s)
  | .waitLow => modPort (fun p => { p with reception := .idle }) s
  | .disabled | .idle => s

/-- FRAME_END (R146): a fall of SFRM. -/
def execFrameEnd (s : State) : Host.Outcome State Fault Refusal :=
  if !s.sfrm then .next s
  else if s.inReset then .next { s with sfrm := false }
  else .next (endFrame { takePortCommand s with sfrm := false })

/-! ## Outcomes, counters, PORT_EN -/

/-- The port takes an outcome (R148, R149): a refusal is counted in UNROUTED and makes the PORT request. -/
def takeOutcome (o : ArrivalOutcome) (s : State) : State :=
  match o with
  | .accepted => s
  | .refusedOff | .refusedSource =>
    request .port (modPort (fun p => { p with unrouted := satInc p.unrouted }) s)

/-- ARRIVAL_OUTCOME (R148): the port takes the oldest outcome handed back. -/
def execArrivalOutcome (s : State) : Host.Outcome State Fault Refusal :=
  match s.port.outcomes with
  | [] => .next s
  | o :: rest => .next (takeOutcome o (modPort (fun p => { p with outcomes := rest }) (takePortCommand s)))

/-- A change of PORT_EN as the port takes it (R151). -/
def Port.enable (b sfrm : Bool) (p : Port) : Port :=
  if b then { p with enabled := true, reception := if sfrm then .waitLow else .idle }
  else { p with enabled := false, reception := .disabled, shiftReg := 0, bitCount := 0 }

/-- A host write of PORT_EN (R151): a change is an event of the port, behind the command that waits there (R144). -/
def writePortEnable (b : Bool) (s : State) : State :=
  if b == s.port.enabled then s else modPort (Port.enable b s.sfrm) (takePortCommand s)

/-- The port at RESTART (R154). -/
def Port.restarted (p : Port) : Port :=
  let q := p.countsCleared
  match q.reception with
  | .receiving => { q with reception := .waitLow, shiftReg := 0, bitCount := 0 }
  | .disabled | .idle | .waitLow => q

/-! ## Injection -/

/-- A host write of the low byte of INJ_VALUE (R152). -/
def writeInjLow (v : Byte) (s : State) : State :=
  { s with inj := { s.inj with latch := v } }

/-- A host write of the high byte of INJ_VALUE commits it (R152). -/
def writeInjHigh (v : Byte) (s : State) : State :=
  { s with inj := { s.inj with value := halfOf s.inj.latch v } }

/-- The channel an INJ_TAG byte names (R153). -/
def tagChannel (v : Byte) : Fin 16 :=
  ⟨v.toNat % 16, Nat.mod_lt _ (by decide)⟩

/-- The status an INJ_TAG byte names (R153). -/
def tagStatus (v : Byte) : SampleStatus :=
  SampleStatus.ofCode (v.toNat / 16 % 4)

/-- A host write of INJ_TAG (R153): one HOST arrival, whose outcome stands in INJ_RESULT before the next bus cycle; a free
engine takes the item at once (R34). -/
def writeInjTag (v : Byte) (s : State) : State :=
  let r := takeArrival false (tagChannel v) s.inj.value (tagStatus v) s
  chooseWork { r.2 with inj := { r.2.inj with tag := v.setWidth 6, result := r.1 } }

/-- INJ_TAG_WRITE (R153). -/
def execInjTagWrite (v : Byte) (s : State) : Host.Outcome State Fault Refusal :=
  .next (hostWrite (writeInjTag v) s)

/-- INJ_VALUE_LOW_WRITE (R152). -/
def execInjValueLowWrite (v : Byte) (s : State) : Host.Outcome State Fault Refusal :=
  .next (hostWrite (writeInjLow v) s)

/-- INJ_VALUE_HIGH_WRITE (R152). -/
def execInjValueHighWrite (v : Byte) (s : State) : Host.Outcome State Fault Refusal :=
  .next (hostWrite (writeInjHigh v) s)

end Sys2Proof.Machine
end

