-- ==== Sys2Proof/Machine/Timebase.lean ====
section
/-! DEFINITION. The timebase (chapter 9): CLKIN periods, the tick, TBDIV, TIMESTAMP. -/

namespace Sys2Proof.Machine

/-- The two timers of an entry at a tick (R159). -/
def Entry.tick (e : Entry) : Entry :=
  { e with qual := e.qual.tick, shape := e.shape.tick }

/-- A new interval begins (R156): the divider in use is TBDIV as it stands, the prescale count 0. -/
def Timebase.newInterval (t : Timebase) : Timebase :=
  { t with dividerInUse := t.tbdiv, prescale := 0 }

/-- One tick more on its way to each owner (R159). -/
def DueTicks.oneMore (d : DueTicks) : DueTicks where
  timestamp := d.timestamp + 1
  timerBank := d.timerBank + 1
  channels := mapVec (· + 1) d.channels

/-- The interval in progress ends (R156): the tick is made, and the next interval begins at once. During power-on reset no
interval runs (R161). -/
def endInterval (s : State) : State :=
  if s.inReset then s else { s with timebase := s.timebase.newInterval, due := s.due.oneMore }

/-- TIMESTAMP takes a tick (R158). -/
def stampTick (s : State) : State :=
  if s.due.timestamp = 0 then s
  else { s with
    timebase := { s.timebase with timestamp := s.timebase.timestamp + 1 }
    due := { s.due with timestamp := s.due.timestamp - 1 } }

/-- The timers at a tick of the timer bank, one event over all 64 (R159): every timer it brings to zero raises its
claim (R41). -/
def bankTimers (s : State) : State :=
  { s with entries := mapVec Entry.tick s.entries, due := { s.due with timerBank := s.due.timerBank - 1 } }

/-- The timer bank takes a tick, and a free engine takes a claim it raises at once: of several that one tick raises, the
one that goes first in the order of R35 (R34, R159). -/
def bankTick (s : State) : State :=
  if s.due.timerBank = 0 then s else chooseWork (bankTimers s)

/-- The channel unit takes a tick for every channel (R159), with the freshness expiries it brings about. The model's
choice here: the channels are taken from 0 upward, which orders the STALE records of one tick (R120, log 7), and a free
engine takes the claim that R36 puts first of those that reach it together (R34, log 20). FRESHNESS_EXPIRY reaches every
other order. -/
def channelTicks (s : State) : State :=
  chooseWork ((List.finRange 16).foldl (fun u c => channelTick c u) s)

/-- A tick that meets no other event: the interval ends and each owner takes its tick (R156, R159). DESIGN CHOICE: the
timer bank takes it before the channel unit, so a free engine takes an expiry before a fault item of the same tick, and
the STALE records bear the number of the work item it then has; R34 and R159 leave the owners' order open, and the rows
of the single owners reach every other (log 7). -/
def tick (s : State) : State :=
  channelTicks (bankTick (stampTick (endInterval s)))

/-- TICK (R156, R159): the whole tick, its owners in the model's order (log 7), the end of the interval, or one owner's
taking of the tick. -/
def execTickBy (x : TickExtent) (s : State) : Host.Outcome State Fault Refusal :=
  match x with
  | .whole => .next (tick s)
  | .interval => .next (endInterval s)
  | .timestamp => .next (stampTick s)
  | .timerBank => .next (bankTick s)
  | .channelUnit => .next (channelTicks s)

/-- The whole tick (R156, R159), its owners in the model's order (log 7). -/
def execTick (s : State) : Host.Outcome State Fault Refusal :=
  execTickBy .whole s

/-- QUALIFICATION_TIMER_EXPIRY (R41): the timer bank takes the tick that brings the qualification timer of entry `n` to
zero and raises its claim; the tick is one event over all its timers, and the claims it raises go in the order of R35
(R159, log 7). -/
def execQualificationTimerExpiry (n : Fin 32) (s : State) : Host.Outcome State Fault Refusal :=
  .next (if s.entries[n].qual.expiring then bankTick s else s)

/-- SHAPING_TIMER_EXPIRY (R41): the timer bank takes the tick that brings the shaping timer of entry `n` to zero and
raises its claim; the tick is one event over all its timers, and the claims it raises go in the order of R35, the
qualification expiry of an entry before its shaping expiry (R44, R159, log 7). -/
def execShapingTimerExpiry (n : Fin 32) (s : State) : Host.Outcome State Fault Refusal :=
  .next (if s.entries[n].shape.expiring then bankTick s else s)

/-- CLKIN periods of an interval: (D + 1) × 64 (R156). -/
def Timebase.period (t : Timebase) : Nat :=
  (t.dividerInUse.toNat + 1) * 64

/-- One CLKIN period (R156): the prescale count advances, and where it reaches the end of the interval the whole tick
is made, its owners in the model's order (log 7). -/
def clkin (s : State) : State :=
  if s.inReset then s
  else if s.timebase.period ≤ s.timebase.prescale + 1 then tick s
  else { s with timebase := { s.timebase with prescale := s.timebase.prescale + 1 } }

/-- A host write of the low byte of TBDIV (R157). -/
def writeTbdivLow (v : Byte) (s : State) : State :=
  { s with timebase := { s.timebase with tbdivLatch := v } }

/-- A host write of the high byte of TBDIV commits it (R157); the interval in progress keeps its divider. -/
def writeTbdivHigh (v : Byte) (s : State) : State :=
  { s with timebase := { s.timebase with tbdiv := halfOf s.timebase.tbdivLatch v } }

/-- TBDIV_LOW_WRITE (R157). -/
def execTbdivLowWrite (v : Byte) (s : State) : Host.Outcome State Fault Refusal :=
  .next (hostWrite (writeTbdivLow v) s)

/-- TBDIV_HIGH_WRITE (R157). -/
def execTbdivHighWrite (v : Byte) (s : State) : Host.Outcome State Fault Refusal :=
  .next (hostWrite (writeTbdivHigh v) s)

/-- A read of 0x10 loads the TIMESTAMP read latch (R158). -/
def loadTimestamp (s : State) : State :=
  { s with timebase := { s.timebase with readLatch := s.timebase.timestamp } }

/-- TIMESTAMP_LATCH_LOAD (R158): a read cycle of 0x10, which returns byte 0 of the newly loaded latch. -/
def execTimestampLatchLoad (s : State) : Host.Outcome State Fault Refusal :=
  .next (hostRead (byteOf s.timebase.timestamp 0) loadTimestamp s)

end Sys2Proof.Machine
end

