-- ==== Sys2Proof/Machine/Window.lean ====
section
/-! DEFINITION. The host window and the command unit (chapters 10 and 11): bus cycles, CONTROL, CMD_OP, the staging area,
bitmaps and their latches, what a read returns. -/

namespace Sys2Proof.Machine

/-! ## CONTROL and the command registers -/

/-- A host write of CONTROL (R163): both bits are stored, a change of OE goes to the output unit (R102), a change of
PORT_EN to the sample port (R151). -/
def writeControl (v : Byte) (s : State) : State :=
  writePortEnable (hasBit v 1) (writeOe (hasBit v 0) s)

/-- OE_CHANGE (R102): the CONTROL write that changes OE. -/
def execOeChange (v : Byte) (s : State) : Host.Outcome State Fault Refusal :=
  .next (hostWrite (writeControl v) s)

/-- PORT_EN_CHANGE (R151): the CONTROL write that changes PORT_EN. -/
def execPortEnChange (v : Byte) (s : State) : Host.Outcome State Fault Refusal :=
  .next (hostWrite (writeControl v) s)

/-- A CMD_OP write that is taken (R167): the opcode, the captured arguments, PENDING. The command will see the staging
area as it stands, less what log 5 leaves free. -/
def takeCommand (op : Byte) (s : State) : State :=
  { s with cmd := { s.cmd with
      op := op, captured0 := s.cmd.arg0, captured1 := s.cmd.arg1, state := .pending, seen := s.staging } }

/-- The command unit hands a command it has taken to its owner (R167, R168). A table command is a claim, which the engine
takes at once when it is free (R34). A command of the capture unit reaches it behind the events that wait there (R110).
A command of the output unit, of the channel unit or of the sample port reaches that unit now: the unit takes it at its
row, or before the next event that reaches the unit (R84, R120, R144): `takeLineCommand`, `takeChannelCommand`,
`takePortCommand` (log 12). POP and FLUSH the queue takes between any two submissions (R65, R71). -/
def handToOwner (c : Command) (s : State) : State :=
  if c.isTable then chooseWork s
  else if c.isCapture then { s with captures := s.captures ++ [.command] }
  else s

/-- A host write of CMD_OP (R167, R169, R170): lost while PENDING; else taken, and handed to its owner, or completed at
once when the opcode is unknown. -/
def writeCmdOp (op : Byte) (s : State) : State :=
  if s.cmd.state == .pending then request .cmdLost s
  else
    match decodeOpcode op with
    | some c => handToOwner c (takeCommand op s)
    | none => complete .badOpcode (takeCommand op s)

/-- COMMAND_TAKEN (R167): the CMD_OP write with a known opcode in IDLE or DONE. -/
def execCommandTaken (op : Byte) (s : State) : Host.Outcome State Fault Refusal :=
  .next (hostWrite (writeCmdOp op) s)

/-- BAD_OPCODE (R170): the CMD_OP write with an unknown opcode in IDLE or DONE. -/
def execBadOpcode (op : Byte) (s : State) : Host.Outcome State Fault Refusal :=
  .next (hostWrite (writeCmdOp op) s)

/-- CMD_OP_WRITE_LOST (R169): the CMD_OP write while PENDING. -/
def execCmdOpWriteLost (op : Byte) (s : State) : Host.Outcome State Fault Refusal :=
  .next (hostWrite (writeCmdOp op) s)

/-- A host write of staging byte `k` (R166). While a command is PENDING, whether that command sees the write is a free
value (R6, log 5). -/
def writeStaging (k : Fin 32) (v : Byte) (s : State) : State :=
  let s1 := { s with staging := s.staging.set k v }
  if s.cmd.state == .pending then
    { s1 with
      cmd := { s.cmd with seen := if Config.stagingWriteSeen s.freeCount then s.cmd.seen.set k v else s.cmd.seen }
      freeCount := s.freeCount + 1 }
  else s1

/-- The staging byte at a window address (R166). -/
def stagingIndex (a : Address) : Option (Fin 32) :=
  if h : 0x40 ≤ a.toNat ∧ a.toNat < 0x60 then some ⟨a.toNat - 0x40, by omega⟩ else none

/-- A host write of any window address, by its access type (R163). -/
def writeWindow (a : Address) (v : Byte) (s : State) : State :=
  match stagingIndex a with
  | some k => writeStaging k v s
  | none =>
    match a.toNat with
    | 0x03 => writeControl v s
    | 0x05 => clearFlags v s
    | 0x06 => writeMask v s
    | 0x07 => writeCmdOp v s
    | 0x08 => { s with cmd := { s.cmd with arg0 := v } }
    | 0x09 => { s with cmd := { s.cmd with arg1 := v } }
    | 0x0C => writeWatermark v s
    | 0x0D => writeTbdivLow v s
    | 0x0E => writeTbdivHigh v s
    | 0x18 => writeInjTag v s
    | 0x19 => writeInjLow v s
    | 0x1A => writeInjHigh v s
    | _ => s

/-- REGISTER_WRITE (R163): a write cycle; an address that has a row of its own is written as that row says (log 13). -/
def execRegisterWrite (a : Address) (v : Byte) (s : State) : Host.Outcome State Fault Refusal :=
  .next (hostWrite (writeWindow a v) s)

/-! ## The interrupt registers -/

/-- INT_FLAGS_CLEAR (R174): a host write of INT_FLAGS. -/
def execIntFlagsClear (v : Byte) (s : State) : Host.Outcome State Fault Refusal :=
  .next (hostWrite (clearFlags v) s)

/-- INT_MASK_WRITE (R175): a host write of INT_MASK. -/
def execIntMaskWrite (v : Byte) (s : State) : Host.Outcome State Fault Refusal :=
  .next (hostWrite (writeMask v) s)

/-! ## Bitmaps -/

/-- A live bitmap of the lines (R103). -/
def lineBits (f : Line → Bool) (s : State) : BitVec 16 :=
  packBits 16 fun l => f s.lines[l]

/-- The live TRIPPED-family bitmap (R3, R164). -/
def trippedBits (s : State) : Word :=
  packBits 32 fun n => s.entries[n].state.inFamily

/-- The live ARMED bitmap (R3, R164). -/
def armedBits (s : State) : Word :=
  packBits 32 fun n => s.entries[n].state != .disarmed

/-- The live channel-state bitmap (R135): channel c in bits 2c and 2c + 1. -/
def channelBits (s : State) : Word :=
  packBits 32 fun i => Nat.testBit s.channels[(⟨i.val / 2, by omega⟩ : Fin 16)].state.code (i.val % 2)

/-- A live bitmap, as a 32-bit field. -/
def liveBitmap (b : Bitmap) (s : State) : Word :=
  match b with
  | .pin => (lineBits Line.pinActive s).setWidth 32
  | .hold => (lineBits Line.hold s).setWidth 32
  | .demand => (lineBits Line.demand s).setWidth 32
  | .cut => (lineBits Line.cut s).setWidth 32
  | .tripped => trippedBits s
  | .armed => armedBits s
  | .channelState => channelBits s

/-- A bitmap's read latch, as a 32-bit field. -/
def bitmapLatch (b : Bitmap) (s : State) : Word :=
  match b with
  | .pin => s.latches.pin.setWidth 32
  | .hold => s.latches.hold.setWidth 32
  | .demand => s.latches.demand.setWidth 32
  | .cut => s.latches.cut.setWidth 32
  | .tripped => s.latches.tripped
  | .armed => s.latches.armed
  | .channelState => s.latches.channelState

/-- The read latches with one bitmap's latch loaded (R164). -/
def BitmapLatches.load (b : Bitmap) (s : State) (t : BitmapLatches) : BitmapLatches :=
  match b with
  | .pin => { t with pin := lineBits Line.pinActive s }
  | .hold => { t with hold := lineBits Line.hold s }
  | .demand => { t with demand := lineBits Line.demand s }
  | .cut => { t with cut := lineBits Line.cut s }
  | .tripped => { t with tripped := trippedBits s }
  | .armed => { t with armed := armedBits s }
  | .channelState => { t with channelState := channelBits s }

/-- A read of a bitmap's lowest address loads its latch (R164). -/
def loadBitmap (b : Bitmap) (s : State) : State :=
  { s with latches := s.latches.load b s }

/-- BITMAP_LATCH_LOAD (R164): a read cycle of a bitmap's lowest address, which returns its lowest byte. -/
def execBitmapLatchLoad (b : Bitmap) (s : State) : Host.Outcome State Fault Refusal :=
  .next (hostRead (byteOf (liveBitmap b s) 0) (loadBitmap b) s)

/-! ## Reads -/

/-- STATUS (R179). -/
def statusByte (s : State) : Byte :=
  BitVec.ofNat 8 (bit s.shutoff 0 + bit (anyCut s) 1 + bit (!s.queue.records.isEmpty) 2 + 8 * s.cmd.state.code)

/-- CONTROL (R163). -/
def controlByte (s : State) : Byte :=
  BitVec.ofNat 8 (bit s.oe 0 + bit s.port.enabled 1)

/-- The bitmap, its byte and whether a read of the address loads its latch (R164). -/
def bitmapAt (a : Nat) : Option (Bitmap × Nat) :=
  match a with
  | 0x60 => some (.pin, 0)
  | 0x61 => some (.pin, 1)
  | 0x62 => some (.hold, 0)
  | 0x63 => some (.hold, 1)
  | 0x64 => some (.demand, 0)
  | 0x65 => some (.demand, 1)
  | 0x66 => some (.cut, 0)
  | 0x67 => some (.cut, 1)
  | 0x68 => some (.tripped, 0)
  | 0x69 => some (.tripped, 1)
  | 0x6A => some (.tripped, 2)
  | 0x6B => some (.tripped, 3)
  | 0x6C => some (.armed, 0)
  | 0x6D => some (.armed, 1)
  | 0x6E => some (.armed, 2)
  | 0x6F => some (.armed, 3)
  | 0x70 => some (.channelState, 0)
  | 0x71 => some (.channelState, 1)
  | 0x72 => some (.channelState, 2)
  | 0x73 => some (.channelState, 3)
  | _ => none

/-- The byte of a latched field: from the live field at its lowest address, which loads the latch, from the latch above
it (R164). -/
def latchedByte (live latch : Word) (k : Nat) : Byte :=
  if k = 0 then byteOf live 0 else byteOf latch k

/-- The byte of the head window (R72): from the queue's head at byte 0, from the latch above it. -/
def headByte (s : State) (k : Nat) : Byte :=
  if k = 0 then (headImage s)[0] else s.queue.headLatch.toList.getD k 0

/-- The byte of a direct register, 0 for an unassigned address (Table 11-1, R163, R178). -/
def registerByte (s : State) (a : Nat) : Byte :=
  match a with
  | 0x00 => 0x4C
  | 0x01 => 0x32
  | 0x02 => 0x01
  | 0x03 => controlByte s
  | 0x04 => statusByte s
  | 0x05 => s.intr.flags.setWidth 8
  | 0x06 => s.intr.mask.setWidth 8
  | 0x07 => s.cmd.op
  | 0x08 => s.cmd.arg0
  | 0x09 => s.cmd.arg1
  | 0x0A => s.cmd.result.code
  | 0x0B => BitVec.ofNat 8 s.queue.records.length
  | 0x0C => s.queue.watermark
  | 0x0D => byteOf s.timebase.tbdiv 0
  | 0x0E => byteOf s.timebase.tbdiv 1
  | 0x14 => s.port.marker
  | 0x15 => s.port.parity
  | 0x16 => s.port.length
  | 0x17 => s.port.unrouted
  | 0x18 => s.inj.tag.setWidth 8
  | 0x19 => byteOf s.inj.value 0
  | 0x1A => byteOf s.inj.value 1
  | 0x1B => s.inj.result.code
  | _ => 0

/-- The byte a read cycle of an address returns (R162 to R166); 0 during power-on reset (R177). -/
def readWindow (s : State) (a : Address) : Byte :=
  if s.inReset then 0
  else
    match stagingIndex a with
    | some k => s.staging[k]
    | none =>
      match bitmapAt a.toNat with
      | some (b, k) => latchedByte (liveBitmap b s) (bitmapLatch b s) k
      | none =>
        if 0x10 ≤ a.toNat ∧ a.toNat < 0x14 then latchedByte s.timebase.timestamp s.timebase.readLatch (a.toNat - 0x10)
        else if 0x20 ≤ a.toNat ∧ a.toNat < 0x2C then headByte s (a.toNat - 0x20)
        else registerByte s a.toNat

/-- The latch a read of an address loads, if it loads one (R164). -/
def loadLatch (a : Address) (s : State) : State :=
  match a.toNat with
  | 0x10 => loadTimestamp s
  | 0x20 => loadHead s
  | _ =>
    match bitmapAt a.toNat with
    | some (b, 0) => loadBitmap b s
    | _ => s

/-- The address is that of a counter of the port, whose read is an event of the port (R144, R149). -/
def isCounter (a : Address) : Bool :=
  0x14 ≤ a.toNat && a.toNat < 0x18

/-- What a read of an address finds: a counter is read behind the command that waits with the port (R144). -/
def beforeRead (a : Address) (s : State) : State :=
  if isCounter a && !s.inReset then takePortCommand s else s

/-- A read cycle of any address (R162): the latch it loads, and the byte it drives from its beginning to its end. -/
def readCycle (a : Address) (s : State) : State :=
  let u := beforeRead a s
  hostRead (readWindow u a) (loadLatch a) u

/-! ## Bus cycles and the rows they make -/

/-- What the strobes make (R162): nothing while CS# is high; a write while WR# is low, whether or not RD# is; a read. -/
inductive BusCycle where
  | none
  | read
  | write
  deriving DecidableEq, Repr

/-- The cycle of three strobes, each `true` while low (R162). -/
def busCycle (cs rd wr : Bool) : BusCycle :=
  if !cs then .none else if wr then .write else if rd then .read else .none

/-- D7 to D0 while the strobes stand so, `none` for high-impedance (R162, R181): driven only in a read cycle, with the
byte it returned; not with CS# high, not with both strobes low, not in a write cycle, not in power-on reset. -/
def dataPins (cs rd wr : Bool) (s : State) : Option Byte :=
  if s.inReset then none
  else
    match busCycle cs rd wr with
    | .read => s.dataOut
    | .none | .write => none

/-- The row of the opcode table that a write cycle is (R163, R167, R169, R170). -/
def writeRow (a : Address) (v : Byte) (s : State) : Instr :=
  match a.toNat with
  | 0x03 =>
    if hasBit v 0 != s.oe then .oeChange v
    else if hasBit v 1 != s.port.enabled then .portEnChange v
    else .registerWrite a v
  | 0x05 => .intFlagsClear v
  | 0x06 => .intMaskWrite v
  | 0x07 =>
    if s.cmd.state == .pending then .cmdOpWriteLost v
    else if (decodeOpcode v).isSome then .commandTaken v
    else .badOpcode v
  | 0x0C => .watermarkWrite v
  | 0x0D => .tbdivLowWrite v
  | 0x0E => .tbdivHighWrite v
  | 0x18 => .injTagWrite v
  | 0x19 => .injValueLowWrite v
  | 0x1A => .injValueHighWrite v
  | _ => .registerWrite a v

/-- The row that a read cycle is; a read that loads no latch has no row: `readCycle` is what it does (R162, R164). -/
def readRow (a : Address) : Option Instr :=
  match a.toNat with
  | 0x10 => some .timestampLatchLoad
  | 0x20 => some .headLatchLoad
  | _ =>
    match bitmapAt a.toNat with
    | some (b, 0) => some (.bitmapLatchLoad b)
    | _ => none

/-- What a bus cycle does (R162): a read at its beginning, a write at its end; with CS# high, nothing. -/
def busEvent (cs rd wr : Bool) (a : Address) (v : Byte) (s : State) : State :=
  match busCycle cs rd wr with
  | .none => s
  | .read => readCycle a s
  | .write => hostWrite (writeWindow a v) s

/-- The row a bus cycle is, if any. -/
def busRow (cs rd wr : Bool) (a : Address) (v : Byte) (s : State) : Option Instr :=
  match busCycle cs rd wr with
  | .none => none
  | .read => readRow a
  | .write => some (writeRow a v s)

end Sys2Proof.Machine
end

