-- ==== Sys2Proof/Machine/Reset.lean ====
section
/-! DEFINITION. RESTART (R60, R80, R107, R141, R154, R172, R173, R176) and power-on reset (R177, R180). -/

namespace Sys2Proof.Machine

/-! ## RESTART -/

/-- An entry at RESTART (R60): a DISARMED one is left, an armed one returns to its arm-time state. -/
def Entry.restarted (entries : Vector Entry 32) (e : Entry) : Entry :=
  if e.state == .disarmed then e else Entry.armTime (effectiveLimit entries e.cfg) e

/-- The engine's part (R60, R172 step 1). The withdrawals it hands over wait for the output unit's own event. -/
def restartEngine (s : State) : State :=
  { s with
    entries := mapVec (Entry.restarted s.entries) s.entries
    pointer := 15
    engine := .restarting false false false false false }

/-- The output unit's part (R107): the withdrawals and its own RESTART effect, as one event. -/
def restartOutputs (s : State) : State :=
  { s with lines := mapVec Line.restarted s.lines, oe := false }

/-- The channel unit's part (R141). -/
def restartChannels (s : State) : State :=
  { s with channels := mapVec Channel.restarted s.channels }

/-- The interrupt unit's part (R176). -/
def restartInterrupts (s : State) : State :=
  { s with intr := { s.intr with flags := 0 } }

/-- The RESTART record (R172 step 4). -/
def restartRecord : RecordBody :=
  { kind := .restart, severity := 3, byRelease := false, valuePresent := false, fromTimer := false, value := 0, aux := 0 }

/-- The queue's part (R80): the submissions that reached the queue before the RESTART record have been taken (R65), then
it is emptied, every mark cleared, the RESTART record admitted. -/
def restartQueue (s : State) : State :=
  let s1 := takeWaiting s
  takeRecord restartRecord { s1 with queue := s1.queue.emptied }

/-- One part of RESTART, when it is its turn: the engine's first, the blocks' in any order, then the interrupt unit's,
the record, the completion (R172, R173). The capture unit and the timebase have no effect of their own (R117, R161). -/
def restartPart (p : RestartPart) (s : State) : State :=
  match s.engine with
  | .taken .table => if p == .engine && ready .restart s then restartEngine s else s
  | .restarting out ch port irq rec =>
    match p with
    | .engine => s
    | .output => if out then s else { restartOutputs s with engine := .restarting true ch port irq rec }
    | .channel => if ch then s else { restartChannels s with engine := .restarting out true port irq rec }
    | .port => if port then s else { modPort Port.restarted s with engine := .restarting out ch true irq rec }
    | .interrupt =>
      if out && ch && port && !irq then { restartInterrupts s with engine := .restarting out ch port true rec } else s
    | .queue =>
      if out && ch && port && irq && !rec then { restartQueue s with engine := .restarting out ch port irq true } else s
    | .completion => if out && ch && port && irq && rec then endService .ok s else s
  | .free | .taken (.expiry _ _) | .settling _ _ | .handling _ _ _ | .ending | .releasing _ _ => s

/-- All that is left of a restart, from its beginning when the engine has taken it. -/
def restartAll (s : State) : State :=
  [RestartPart.engine, .output, .channel, .port, .interrupt, .queue, .completion].foldl (fun s p => restartPart p s) s

/-- RESTART (R172, R173): to its end, or by one part. -/
def execRestart (x : RestartExtent) (s : State) : Host.Outcome State Fault Refusal :=
  match x with
  | .finish => .next (restartAll s)
  | .part p => .next (restartPart p s)

/-! ## Power-on reset -/

/-- The part while RESET# is low (R177): every block at its power-on values. The levels of SFRM and SHUTOFF#, the queue
of commands and the model's own counters are outside the reset. -/
def powerOn (s : State) : State :=
  { State.reset with
    pending := s.pending, inReset := true, sfrm := s.sfrm, shutoff := s.shutoff, workItem := s.workItem,
    freeCount := s.freeCount }

/-- POWER_ON_RESET (R177, R180): from any state. -/
def execPowerOnReset (s : State) : Host.Outcome State Fault Refusal :=
  .next (powerOn s)

/-- POWER_ON_RESET_END (R180, R161): the first interval begins and the window takes bus cycles. -/
def execPowerOnResetEnd (s : State) : Host.Outcome State Fault Refusal :=
  .next (if s.inReset then { s with inReset := false, timebase := s.timebase.newInterval } else s)

end Sys2Proof.Machine
end

