-- ==== Sys2Proof/Machine/Dispatch.lean ====
section
/-! DEFINITION. The meaning of every command: one arm per constructor of Instr. -/

namespace Sys2Proof.Machine

def exec (i : Instr) (s : State) : Host.Outcome State Fault Refusal :=
  match i with
  | .readEntry => Sys2Proof.Machine.execReadEntry s
  | .writeEntry => Sys2Proof.Machine.execWriteEntry s
  | .arm => Sys2Proof.Machine.execArm s
  | .disarm => Sys2Proof.Machine.execDisarm s
  | .release => Sys2Proof.Machine.execRelease s
  | .releaseAll x => Sys2Proof.Machine.execReleaseAll x s
  | .readChannel => Sys2Proof.Machine.execReadChannel s
  | .writeChannel => Sys2Proof.Machine.execWriteChannel s
  | .enable => Sys2Proof.Machine.execEnable s
  | .disable => Sys2Proof.Machine.execDisable s
  | .readLine => Sys2Proof.Machine.execReadLine s
  | .writeLine => Sys2Proof.Machine.execWriteLine s
  | .silence => Sys2Proof.Machine.execSilence s
  | .override => Sys2Proof.Machine.execOverride s
  | .resume => Sys2Proof.Machine.execResume s
  | .pop => Sys2Proof.Machine.execPop s
  | .flush => Sys2Proof.Machine.execFlush s
  | .readAcc => Sys2Proof.Machine.execReadAcc s
  | .writeAcc => Sys2Proof.Machine.execWriteAcc s
  | .clearPortCounts => Sys2Proof.Machine.execClearPortCounts s
  | .restart x => Sys2Proof.Machine.execRestart x s
  | .badOpcode op => Sys2Proof.Machine.execBadOpcode op s
  | .cmdOpWriteLost op => Sys2Proof.Machine.execCmdOpWriteLost op s
  | .evaluation x => Sys2Proof.Machine.execEvaluation x s
  | .captureStep => Sys2Proof.Machine.execCaptureStep s
  | .qualificationTimerExpiry n => Sys2Proof.Machine.execQualificationTimerExpiry n s
  | .qualificationExpiryTaken => Sys2Proof.Machine.execQualificationExpiryTaken s
  | .shapingTimerExpiry n => Sys2Proof.Machine.execShapingTimerExpiry n s
  | .shapingExpiryTaken => Sys2Proof.Machine.execShapingExpiryTaken s
  | .tickBy x => Sys2Proof.Machine.execTickBy x s
  | .freshnessExpiry c => Sys2Proof.Machine.execFreshnessExpiry c s
  | .arrival => Sys2Proof.Machine.execArrival s
  | .arrivalOutcome => Sys2Proof.Machine.execArrivalOutcome s
  | .frameStart => Sys2Proof.Machine.execFrameStart s
  | .frameEnd => Sys2Proof.Machine.execFrameEnd s
  | .injTagWrite v => Sys2Proof.Machine.execInjTagWrite v s
  | .injValueLowWrite v => Sys2Proof.Machine.execInjValueLowWrite v s
  | .injValueHighWrite v => Sys2Proof.Machine.execInjValueHighWrite v s
  | .tbdivLowWrite v => Sys2Proof.Machine.execTbdivLowWrite v s
  | .tbdivHighWrite v => Sys2Proof.Machine.execTbdivHighWrite v s
  | .oeChange v => Sys2Proof.Machine.execOeChange v s
  | .portEnChange v => Sys2Proof.Machine.execPortEnChange v s
  | .watermarkWrite v => Sys2Proof.Machine.execWatermarkWrite v s
  | .intFlagsClear v => Sys2Proof.Machine.execIntFlagsClear v s
  | .intMaskWrite v => Sys2Proof.Machine.execIntMaskWrite v s
  | .headLatchLoad => Sys2Proof.Machine.execHeadLatchLoad s
  | .timestampLatchLoad => Sys2Proof.Machine.execTimestampLatchLoad s
  | .bitmapLatchLoad b => Sys2Proof.Machine.execBitmapLatchLoad b s
  | .registerWrite a v => Sys2Proof.Machine.execRegisterWrite a v s
  | .recordSubmission submitter => Sys2Proof.Machine.execRecordSubmission submitter s
  | .shutoffAssert => Sys2Proof.Machine.execShutoffAssert s
  | .shutoffRelease => Sys2Proof.Machine.execShutoffRelease s
  | .powerOnReset => Sys2Proof.Machine.execPowerOnReset s
  | .powerOnResetEnd => Sys2Proof.Machine.execPowerOnResetEnd s
  | .sclkRisingEdge sdat => Sys2Proof.Machine.execSclkRisingEdge sdat s
  | .commandTaken op => Sys2Proof.Machine.execCommandTaken op s

end Sys2Proof.Machine
end

