-- ==== Sys2Proof/Safety.lean ====
section
/-! DEFINITION. What counts as a safe state: the laws of the L32, as the spec sets them out block by block. Each is a
predicate of one state; a safe run keeps them all. -/

namespace Sys2Proof.Safety

open Sys2Proof.Machine

/-! ## Event queue -/

/-- R62: the queue never holds more than 64 records. R77: WATERMARK holds a number from 1 to 64. -/
abbrev QueueLaw (s : State) : Prop :=
  s.queue.records.length ≤ 64 ∧ 1 ≤ s.queue.watermark.toNat ∧ s.queue.watermark.toNat ≤ 64

/-- How many sequence numbers have been assigned since a record's, counting its own, modulo 65536 (R62). -/
def age (s : State) (r : Record) : Nat :=
  (s.queue.nextSeq - r.seq).toNat

/-- The sum of the severities in the queue (R62, Note). -/
def severitySum (s : State) : Nat :=
  (s.queue.records.map fun r => r.body.severity.toNat).sum

/-- R62: from head to tail the sequence numbers strictly increase in the modulo-65536 order of admission: each record is
younger than the one before it. The bound is the Note's argument as a property of one state: what is left to be assigned
while a record stays is paid for by the places behind it, the severities and the POPs that can still come. -/
abbrev SequenceLaw (s : State) : Prop :=
  s.queue.records.length ≤ 64
    ∧ s.queue.records.Pairwise (fun a b => age s b < age s a)
    ∧ ∀ i : Fin s.queue.records.length,
        1 ≤ age s s.queue.records[i]
          ∧ age s s.queue.records[i] ≤ (s.queue.records.length - i.val) + severitySum s + 3 * (63 - i.val)

/-! ## Output unit -/

/-- The relations R83, R91, R92 and R102 state of one line. -/
abbrev LineRelations (s : State) (l : Fin 16) : Prop :=
  (s.lines[l].demand = true ↔ ∃ n : Fin 32, s.lines[l].contrib[n] = true)
    ∧ s.lines[l].want = s.lines[l].wants
    ∧ s.lines[l].hold = (s.lines[l].want && !s.lines[l].blocked)
    ∧ (s.lines[l].blocked = true → s.lines[l].want = true)
    ∧ s.lines[l].pinActive = (s.lines[l].hold && s.oe && !s.lines[l].cut)

/-- R94: silenced only while the override is AUTO and the demand is set. -/
abbrev SilenceLaw (s : State) (l : Fin 16) : Prop :=
  s.lines[l].silenced = true → s.lines[l].override = .auto ∧ s.lines[l].demand = true

/-- R95: the two lines of an exclusive pair never both hold; a blocked line waits for its exclusive partner's hold. -/
abbrev PairLaw (s : State) (l : Fin 16) : Prop :=
  (isExclusive l s = true → ¬ (s.lines[l].hold = true ∧ s.lines[partner l].hold = true))
    ∧ (s.lines[l].blocked = true → isExclusive l s = true ∧ s.lines[partner l].hold = true)

/-- R99: while SHUTOFF# is asserted every member line is cut. R105: a cut line is always a member. -/
abbrev CutLaw (s : State) (l : Fin 16) : Prop :=
  (s.shutoff = true → s.lines[l].cutMember = true → s.lines[l].cut = true)
    ∧ (s.lines[l].cut = true → s.lines[l].cutMember = true)

/-- The laws of every line (R83, R94, R95, R99, R102). -/
abbrev OutputLaw (s : State) : Prop :=
  ∀ l : Fin 16, LineRelations s l ∧ SilenceLaw s l ∧ PairLaw s l ∧ CutLaw s l

/-! ## Watch table -/

/-- A stored configuration has passed the range and hysteresis checks (R7, R8). -/
abbrev ConfigLaw (c : EntryConfig) : Prop :=
  c.band.toNat ≤ 32767 ∧ c.hysteresis.toNat ≤ 32767 ∧ (c.shaping ≠ .level → c.shapeTicks ≠ 0) ∧ hysteresisFits c = true

/-- The qualification timer is loaded exactly in the two pending states; a timer that runs has a count of 1 or more, the
shaping timer too (R40, R41, R160). -/
abbrev QualificationLaw (e : Entry) : Prop :=
  (e.qual.loaded = true ↔ e.state = .pendingTrip ∨ e.state = .pendingClear) ∧ e.qual ≠ .running 0
    ∧ e.shape ≠ .running 0

/-- The condition flag is in step with the state (R27, Note; Table 3-1). -/
abbrev FlagLaw (e : Entry) : Prop :=
  (e.state = .normal ∨ e.state = .pendingClear ∨ e.state = .held → e.condition = false)
    ∧ (e.state = .pendingTrip ∨ e.state = .tripped → e.condition = true)

/-- R46: an INHIBITED entry has produced no trip edge since it was armed, and its shaping timer is unloaded. R51: a HELD
entry has its latch field set. -/
abbrev StateLaw (e : Entry) : Prop :=
  (e.state = .inhibited → e.tripCount = 0 ∧ e.shape = .unloaded) ∧ (e.state = .held → e.cfg.latch = true)

/-- What is true of every entry by itself. -/
abbrev EntryLaw (e : Entry) : Prop :=
  ConfigLaw e.cfg ∧ QualificationLaw e ∧ FlagLaw e ∧ StateLaw e

/-- R53: every entry whose state is not DISARMED is bound to a channel whose state is not OFF. -/
abbrev BindingLaw (s : State) : Prop :=
  ∀ n : Fin 32, s.entries[n].state ≠ .disarmed → s.channels[s.entries[n].cfg.channel].state ≠ .off

/-- R9: no entry tracks itself, and no entry tracks an entry whose track field is set. -/
abbrev TrackingLaw (s : State) : Prop :=
  ∀ n t : Fin 32, s.entries[n].cfg.track = some t → t ≠ n ∧ s.entries[t].cfg.track = none

/-- The laws of the watch table (R7, R8, R9, R27, R40, R46, R51, R53). -/
abbrev WatchLaw (s : State) : Prop :=
  (∀ n : Fin 32, EntryLaw s.entries[n]) ∧ BindingLaw s ∧ TrackingLaw s

/-- Whether an entry is contributing, by its shaping mode (R85, R86, R88). -/
def contributes (e : Entry) : Bool :=
  match e.cfg.shaping with
  | .level => e.state.inFamily
  | .pulse => e.shape.loaded
  | .blink => e.phase

/-- An entry's shaping timer and phase (R85, R86, R88): LEVEL uses neither; PULSE keeps the phase OFF; a BLINK timer is
loaded exactly in the tripped family, and the phase is ON only there; an entry with no output, or DISARMED, has its
timer unloaded and its phase OFF. -/
abbrev ShapingLaw (e : Entry) : Prop :=
  (e.cfg.output = none ∨ e.state = .disarmed ∨ e.cfg.shaping = .level → e.shape = .unloaded ∧ e.phase = false)
    ∧ (e.cfg.shaping = .pulse → e.phase = false)
    ∧ (e.cfg.output ≠ none → e.cfg.shaping = .blink → (e.shape.loaded = true ↔ e.state.inFamily = true))
    ∧ (e.phase = true → e.state.inFamily = true)

/-- The engine has handed over the withdrawals of RESTART, and the output unit has still to take them (R60, R107). -/
def withdrawalsWait (s : State) : Bool :=
  match s.engine with
  | .restarting outputDone _ _ _ _ => !outputDone
  | .free | .taken _ | .settling _ _ | .handling _ _ _ | .ending | .releasing _ _ => false

/-- Entry e is in line l's contribution set exactly while its output names l and it contributes (R85, R86, R88, R90).
While the withdrawals of RESTART wait for the output unit no entry contributes any more, and the sets still stand. -/
abbrev ContributionLaw (s : State) : Prop :=
  ∀ n : Fin 32, ShapingLaw s.entries[n]
    ∧ if withdrawalsWait s then contributes s.entries[n] = false
      else ∀ l : Fin 16,
        (s.lines[l].contrib[n] = true ↔ s.entries[n].cfg.output = some l ∧ contributes s.entries[n] = true)

/-! ## Channels, port, timebase -/

/-- R126: the ring holds at most avg_len values; R132: it is empty outside LIVE; R137: an OFF channel has an empty slot
and an unloaded timer; R131: a running timer has a count of 1 or more. -/
abbrev ChannelLaw (ch : Channel) : Prop :=
  ch.ring.length ≤ ch.cfg.avgLen.size
    ∧ (ch.state ≠ .live → ch.ring = [])
    ∧ (ch.state = .off → ch.slot = none ∧ ch.fresh = .unloaded)
    ∧ ch.fresh ≠ .running 0

/-- The law of every channel; and the channel whose item the engine is settling is not OFF, since ENABLE, DISABLE and
RESTART wait until the evaluation ends (R37, R39, R137). -/
abbrev ChannelsLaw (s : State) : Prop :=
  (∀ c : Fin 16, ChannelLaw s.channels[c])
    ∧ ∀ (c : Fin 16) (item : Item), s.engine = .settling c item → s.channels[c].state ≠ .off

/-- R143: DISABLED exactly while PORT_EN is clear; RECEIVING and WAIT_LOW only while SFRM is high, IDLE only while it is
low; the bit count runs from 0 to 25. -/
abbrev PortLaw (s : State) : Prop :=
  (s.port.reception = .disabled ↔ s.port.enabled = false)
    ∧ (s.port.reception = .receiving ∨ s.port.reception = .waitLow → s.sfrm = true)
    ∧ (s.port.reception = .idle → s.sfrm = false)
    ∧ s.port.bitCount ≤ 25

/-- R156: the prescale count stays below the end of the interval. -/
abbrev TimebaseLaw (s : State) : Prop :=
  s.timebase.prescale < (s.timebase.dividerInUse.toNat + 1) * 64

/-! ## Command unit and power-on reset -/

/-- R39, R56, R172: while the engine's work item is a RELEASE_ALL or a RESTART, that command is the one PENDING. R110: of
the events that wait for the capture unit one is a command, while READ_ACC or WRITE_ACC is PENDING, and none otherwise. -/
abbrev CommandLaw (s : State) : Prop :=
  (∀ k count : Nat, s.engine = .releasing k count → ready .releaseAll s = true)
    ∧ (∀ out ch port irq rec : Bool, s.engine = .restarting out ch port irq rec → ready .restart s = true)
    ∧ s.captures.count .command = if ready .readAcc s || ready .writeAcc s then 1 else 0

/-- R34, R35: the engine is free only while no claim waits: no expiry, no table command, no channel item; and an expiry or
a table command it has taken is one that has been raised. -/
abbrev EngineLaw (s : State) : Prop :=
  (s.engine = .free →
      (∀ n : Fin 32, s.entries[n].qualClaim = false ∧ s.entries[n].shapeClaim = false) ∧ tableWaiting s = false
        ∧ ∀ c : Fin 16, s.channels[c].slot = none)
    ∧ (∀ n : Fin 32, s.engine = .taken (.expiry n .qualification) → s.entries[n].qualClaim = true)
    ∧ (∀ n : Fin 32, s.engine = .taken (.expiry n .shaping) → s.entries[n].shapeClaim = true)
    ∧ (s.engine = .taken .table → tableWaiting s = true)

/-- R177: while power-on reset lasts every block stands at its power-on values; what is not reset is what comes from
outside, the levels of SFRM and SHUTOFF# and the queue of commands, and the model's own two counters. -/
abbrev ResetLaw (s : State) : Prop :=
  s.inReset = true → s = powerOn s

end Sys2Proof.Safety
end

