-- ==== Sys2Proof/Certificates/Slice0/Obligations.lean ====
section
/-! DEFINITION. The statements for the provers. First the vocabulary they are written in, taken from the rules of spec/
(who serves a command, what a completion is, what an edge hands over), then the statements by block. A statement that
names a law of Sys2Proof.Safety as a premise leaves out only states no run reaches; that every step keeps the law is a
statement of its own. In every statement about a command of CMD_OP the completion comes with the owner's event (log 15). -/

namespace Sys2Proof.Claims

open Sys2Proof.Machine Sys2Proof.Safety

/-! ## Who serves a command, and how it completes -/

/-- Command `c` is with its owner: the command state is PENDING and CMD_OP holds its opcode (R167, R168). -/
abbrev Waits (c : Command) (s : State) : Prop :=
  s.cmd.state = .pending ∧ s.cmd.op = encodeOpcode c

/-- No expiry claim of entry `n` waits for the engine, live or void (R40, R42). -/
abbrev NoClaim (n : Fin 32) (s : State) : Prop :=
  s.entries[n].qual ≠ .expired ∧ s.entries[n].qualVoid = 0 ∧ s.entries[n].shape ≠ .expired ∧ s.entries[n].shapeVoid = 0

/-- The engine has taken table command `c`, and serves it now (R34, R35). Expiries raised meanwhile may wait (R58). -/
abbrev Served (c : Command) (s : State) : Prop :=
  Waits c s ∧ s.engine = .taken .table

/-- The captured CMD_ARG0 is `i` (R167). -/
abbrev Index (i : Nat) (s : State) : Prop :=
  s.cmd.captured0.toNat = i

/-- R168: CMD_RESULT becomes the result code, the command state DONE, and the CMD request is made (bit 5 of
INT_FLAGS). -/
def completed (r : Result) (s : State) : State :=
  { s with
    cmd := { s.cmd with result := r, state := .done }
    intr := { s.intr with flags := s.intr.flags ||| 0x20 } }

/-- R39: a table command completes and the engine's work item ends: the engine comes free and chooses afresh, as
`EngineTakesClaimsInServiceOrder` says. -/
def served (r : Result) (s : State) : State :=
  comeFree (completed r s)

/-- Every entry but `n` is as it was. -/
abbrev OthersKept (n : Fin 32) (s t : State) : Prop :=
  ∀ m : Fin 32, m ≠ n → t.entries[m] = s.entries[m]

/-- Every line but `l` and its partner is as it was. -/
abbrev OtherLinesKept (l : Fin 16) (s t : State) : Prop :=
  ∀ k : Fin 16, k ≠ l → k ≠ partner l → t.lines[k] = s.lines[k]

/-- The state after `k` steps, `none` if one of them stops. -/
def after : Nat → State → Option State
  | 0, s => some s
  | k + 1, s =>
    match step s with
    | .next t => after k t
    | .fault _ => none
    | .refused _ => none

/-- The state after a list of commands one after another, `none` if one of them stops. -/
def runAll : List Instr → State → Option State
  | [], s => some s
  | c :: rest, s =>
    match exec c s with
    | .next t => runAll rest t
    | .fault _ => none
    | .refused _ => none

/-! ## Commands that wait with a block (R84, R120, R144, R167) -/

/-- The state after the row of whichever of these commands waits with its owner; the state as it is when none does. -/
def waitingTaken : List (Command × Instr) → State → State
  | [], s => s
  | p :: rest, s =>
    if Waits p.1 s then
      match exec p.2 s with
      | .next t => t
      | .fault _ => s
      | .refused _ => s
    else waitingTaken rest s

/-- R84: what an event that reaches the output unit finds: a line command handed over before has been taken. -/
def lineTaken (s : State) : State :=
  waitingTaken [(.readLine, .readLine), (.writeLine, .writeLine), (.silence, .silence), (.override, .override),
    (.resume, .resume)] s

/-- R120: what an event that reaches channel `c` finds: a READ_CHANNEL or WRITE_CHANNEL of it, handed over before, has
been taken. -/
def channelTaken (c : Fin 16) (s : State) : State :=
  if Index c s then waitingTaken [(.readChannel, .readChannel), (.writeChannel, .writeChannel)] s else s

/-- R144: what an event that reaches the sample port finds: a CLEAR_PORT_COUNTS handed over before has been taken. -/
def portTaken (s : State) : State :=
  waitingTaken [(.clearPortCounts, .clearPortCounts)] s

/-! ## Entries -/

/-- R19: `L` is the entry's own limit, or the tracked entry's stored limit plus track_offset, saturated. -/
abbrev LimitOf (n : Fin 32) (s : State) (L : Half) : Prop :=
  (s.entries[n].cfg.track = none → L = s.entries[n].cfg.limit)
    ∧ ∀ k : Fin 32, s.entries[n].cfg.track = some k →
        L.toInt = max (-32768) (min 32767 (s.entries[k].cfg.limit.toInt + s.entries[n].cfg.trackOffset.toInt))

/-- R42: the claims that become void when a timer is cancelled or loaded anew: one when it had expired. -/
def voided : Timer → Nat
  | .unloaded => 0
  | .running _ => 0
  | .expired => 1

/-- R53: entry `n` of `t` is entry `n` of `s` in its arm-time state, and what waited of its claims is void (R42; the counts
of void claims are the model's own, log 11). -/
abbrev ArmTime (n : Fin 32) (s t : State) : Prop :=
  LimitOf n s t.entries[n].effLimit
    ∧ t.entries[n] = { s.entries[n] with
        state := if s.entries[n].cfg.startInhibit then .inhibited else .normal
        condition := false
        tripCount := 0
        lastValue := none
        effLimit := t.entries[n].effLimit
        qual := .unloaded
        qualVoid := s.entries[n].qualVoid + voided s.entries[n].qual
        shape := .unloaded
        shapeVoid := s.entries[n].shapeVoid + voided s.entries[n].shape
        phase := false }

/-- R11: the fields that are not retune fields are equal. -/
abbrev FixedFieldsEqual (a b : EntryConfig) : Prop :=
  a.channel = b.channel ∧ a.compare = b.compare ∧ a.hystSide = b.hystSide ∧ a.track = b.track ∧ a.latch = b.latch
    ∧ a.startInhibit = b.startInhibit ∧ a.faultPolicy = b.faultPolicy ∧ a.output = b.output ∧ a.shaping = b.shaping
    ∧ a.shapeTicks = b.shapeTicks ∧ a.captureAcc = b.captureAcc ∧ a.captureAction = b.captureAction
    ∧ a.captureEdge = b.captureEdge ∧ a.captureConst = b.captureConst

/-- R8: hysteresis exceeds band for INSIDE with TRIP_SIDE or OUTSIDE with RELEASE_SIDE. -/
abbrev HysteresisTooWide (c : EntryConfig) : Prop :=
  (c.compare = .inside ∧ c.hystSide = .tripSide ∨ c.compare = .outside ∧ c.hystSide = .releaseSide)
    ∧ c.band.toNat < c.hysteresis.toNat

/-- R9: the three cases in which a proposed track of entry `n` breaks tracking at depth one. -/
abbrev TrackTooDeep (n : Fin 32) (track : Option (Fin 32)) (s : State) : Prop :=
  ∃ t : Fin 32, track = some t
    ∧ (t = n ∨ s.entries[t].cfg.track ≠ none ∨ ∃ m : Fin 32, m ≠ n ∧ s.entries[m].cfg.track = some n)

/-- R7: the proposed image `b` contains something out of range. -/
abbrev OutOfRange (b : Vector Byte 32) : Prop :=
  b[0].toNat / 16 % 4 = 3 ∨ b[16].toNat % 4 = 3 ∨ b[16].toNat / 4 % 4 = 3 ∨ 0x80 ≤ b[5].toNat ∨ 0x80 ≤ b[7].toNat
    ∨ (32 ≤ b[8].toNat ∧ b[8].toNat ≤ 254) ∨ (16 ≤ b[15].toNat ∧ b[15].toNat ≤ 254)
    ∨ (8 ≤ b[19].toNat ∧ b[19].toNat ≤ 254) ∨ (b[16].toNat % 4 ≠ 0 ∧ b[17] = 0 ∧ b[18] = 0)

/-! ## Bytes of the images, as the tables lay them out -/

/-- R4: a reference byte, 0xFF for none. -/
abbrev RefByte {k : Nat} (b : Byte) (r : Option (Fin k)) : Prop :=
  (r = none → b = 0xFF) ∧ ∀ i : Fin k, r = some i → b.toNat = i.val

/-- Table 1-3, bytes 0 to 21, with the codes of Table 1-1. -/
abbrev EntryBytes (b : Vector Byte 32) (c : EntryConfig) : Prop :=
  b[0].toNat % 16 = c.channel.val
    ∧ b[0].toNat / 16 % 4 = (match c.faultPolicy with | .hold => 0 | .trip => 1 | .clear => 2)
    ∧ b[1].toNat % 4 = (match c.compare with | .above => 0 | .below => 1 | .inside => 2 | .outside => 3)
    ∧ (b[1].getLsbD 2 = true ↔ c.hystSide = .tripSide)
    ∧ b[1].getLsbD 3 = c.latch ∧ b[1].getLsbD 4 = c.startInhibit ∧ b[1].getLsbD 5 = c.eventTrip
    ∧ b[1].getLsbD 6 = c.eventClear
    ∧ b[3] ++ b[2] = c.limit ∧ b[5] ++ b[4] = c.band ∧ b[7] ++ b[6] = c.hysteresis
    ∧ RefByte b[8] c.track ∧ b[10] ++ b[9] = c.trackOffset
    ∧ b[12] ++ b[11] = c.onDelay ∧ b[14] ++ b[13] = c.offDelay
    ∧ RefByte b[15] c.output
    ∧ b[16].toNat % 4 = (match c.shaping with | .level => 0 | .pulse => 1 | .blink => 2)
    ∧ b[16].toNat / 4 % 4 = (match c.captureEdge with | .trip => 0 | .clear => 1 | .both => 2)
    ∧ b[16].toNat / 16 % 4 = (match c.captureAction with | .set => 0 | .excess => 1 | .add => 2 | .copy => 3)
    ∧ b[16].toNat / 64 = c.severity.toNat
    ∧ b[18] ++ b[17] = c.shapeTicks ∧ RefByte b[19] c.captureAcc ∧ b[21] ++ b[20] = c.captureConst

/-- Codes of the averaging length (Table 7-1). -/
def avgLenCode : AvgLen → Nat
  | .one => 0
  | .two => 1
  | .four => 2
  | .eight => 3

/-- Table 7-5, bytes 0 to 4, with the codes of Table 7-1. -/
abbrev ChannelBytes (b : Vector Byte 32) (c : ChannelConfig) : Prop :=
  b[0].toNat % 4 = (match c.source with | .port => 0 | .host => 1 | .either => 2)
    ∧ b[0].toNat / 4 % 4 = avgLenCode c.avgLen
    ∧ b[0].toNat / 16 % 4 = c.faultSeverity.toNat
    ∧ b[0].getLsbD 6 = c.faultEvents ∧ b[0].getLsbD 7 = c.overrangeAsLimit
    ∧ b[2] ++ b[1] = c.zeroOffset ∧ b[4] ++ b[3] = c.freshWindow

/-- Table 5-3, byte 0. -/
abbrev LineByte (b : Byte) (p : LineProposal) : Prop :=
  (b.getLsbD 0 = true ↔ p.polarity = .activeLow) ∧ b.getLsbD 1 = p.cutMember ∧ b.getLsbD 2 = p.conflictEvent
    ∧ b.getLsbD 3 = p.exclusive ∧ b.toNat / 16 % 4 = p.conflictSeverity.toNat

/-- R40: the remaining count an image shows: the count of a running timer, else 0. -/
def countShown : Timer → Half
  | .unloaded => 0
  | .running k => k
  | .expired => 0

/-- R131: the freshness count an image shows, 0 when unloaded. -/
def freshShown : FreshTimer → Half
  | .unloaded => 0
  | .running k => k

/-- Codes of the entry states (Table 1-3, byte 22). -/
def entryStateCode : EntryState → Nat
  | .disarmed => 0
  | .inhibited => 1
  | .normal => 2
  | .pendingTrip => 3
  | .tripped => 4
  | .pendingClear => 5
  | .held => 6

/-- Codes of the channel states (Table 7-3). -/
def channelStateCode : ChannelState → Nat
  | .off => 0
  | .waiting => 1
  | .live => 2
  | .stale => 3

/-- Codes of a sample status (R119). -/
def sampleStatusCode : SampleStatus → Nat
  | .good => 0
  | .overHigh => 1
  | .overLow => 2
  | .fault => 3

/-- Kind codes of a record (Table 4-1). -/
def recordKindCode : RecordKind → Nat
  | .trip _ => 1
  | .clear _ => 2
  | .stale _ => 3
  | .invalid _ => 4
  | .fresh _ => 5
  | .conflict _ => 6
  | .cutoff => 7
  | .restart => 8

/-- Subject of a record, 0 for the device (Tables 4-1 and 4-2). -/
def recordSubject : RecordKind → Nat
  | .trip n => n.val
  | .clear n => n.val
  | .stale c => c.val
  | .invalid c => c.val
  | .fresh c => c.val
  | .conflict l => l.val
  | .cutoff => 0
  | .restart => 0

/-- Result codes (Table 10-1). -/
def resultCode : Result → Nat
  | .ok => 0x00
  | .badOpcode => 0x01
  | .badIndex => 0x02
  | .badField => 0x03
  | .armed => 0x04
  | .notArmed => 0x05
  | .channelOff => 0x06
  | .inUse => 0x07
  | .trackDepth => 0x08
  | .notHeld => 0x09
  | .noDemand => 0x0A
  | .shutoffActive => 0x0B
  | .cutActive => 0x0C
  | .pairBusy => 0x0D
  | .queueEmpty => 0x0E
  | .already => 0x0F
  | .channelOn => 0x10

/-- Codes of the override modes (R93). -/
def overrideCode : Override → Nat
  | .auto => 0
  | .forceOn => 1
  | .forceOff => 2

/-! ## Edges (R14 to R17) -/

/-- R16: the capture step of an edge of an entry, if it applies. -/
def capturesOf (c : EntryConfig) (dir : Direction) (v : Option Half) (limit : Half) : List CaptureEvent :=
  match c.captureAcc with
  | none => []
  | some a =>
    if c.captureEdge = .both ∨ (c.captureEdge = .trip ∧ dir = .trip) ∨ (c.captureEdge = .clear ∧ dir = .clear) then
      [.step { acc := a, action := c.captureAction, const := c.captureConst, value := v, limit := limit }]
    else []

/-- R17: the record of an edge of entry `n`, if the event mask admits one; it is one of the work item's own (R65, log
8). -/
def recordsOf (n : Fin 32) (c : EntryConfig) (dir : Direction) (v : Option Half) (fromTimer byRelease : Bool)
    (item : Nat) : List Waiting :=
  if (dir = .trip ∧ c.eventTrip = true) ∨ (dir = .clear ∧ c.eventClear = true) then
    [{ submitter := .engine, item := item, loose := true,
       body := {
        kind := if dir = .trip then .trip n else .clear n
        severity := c.severity
        byRelease := byRelease
        valuePresent := v.isSome
        fromTimer := fromTimer
        value := v.getD 0
        aux := BitVec.ofNat 4 c.channel.val } }]
  else []

/-- R97: the CONFLICT record of line `o`, when the events between `s` and `t` have blocked it; `loose` when a contribution
change of the engine's work item raised it (R65, log 8). -/
def conflictsOf (loose : Bool) (o : Option (Fin 16)) (s t : State) : List Waiting :=
  match o with
  | none => []
  | some l =>
    if t.lines[l].blocked = true ∧ s.lines[l].blocked = false ∧ s.lines[l].conflictEvent = true then
      [{ submitter := .outputUnit, item := s.workItem, loose := loose,
         body := {
          kind := .conflict l, severity := s.lines[l].conflictSeverity, byRelease := false, valuePresent := false,
          fromTimer := false, value := 0, aux := 0 } }]
    else []

/-- R92: want from override, demand and silence. -/
abbrev wantOf (ln : Line) : Bool :=
  match ln.override with
  | .auto => ln.demand && !ln.silenced
  | .forceOn => true
  | .forceOff => false

/-- R95, R96, R102: line `l` becomes `ln`, and what follows from its want on the line and its partner: no change, a rise
(hold, or blocked by the exclusive partner's hold), or a fall (with the handover to the partner). -/
abbrev LineFollows (l : Fin 16) (ln : Line) (s t : State) : Prop :=
  OtherLinesKept l s t
    ∧ (wantOf ln = s.lines[l].want → t.lines[l] = ln ∧ t.lines[partner l] = s.lines[partner l])
    ∧ (wantOf ln = true → s.lines[l].want = false →
        t.lines[partner l] = s.lines[partner l]
          ∧ t.lines[l] =
            if s.exclusive[pairOf l] = true ∧ s.lines[partner l].hold = true then
              { ln with want := true, blocked := true, hold := false, pinActive := false }
            else { ln with want := true, blocked := false, hold := true, pinActive := s.oe && !ln.cut })
    ∧ (wantOf ln = false → s.lines[l].want = true →
        t.lines[l] = { ln with want := false, hold := false, blocked := false, pinActive := false }
          ∧ t.lines[partner l] =
            if s.lines[l].hold = true ∧ s.exclusive[pairOf l] = true ∧ s.lines[partner l].blocked = true then
              { s.lines[partner l] with
                blocked := false, hold := true, pinActive := s.oe && !s.lines[partner l].cut }
            else s.lines[partner l])

/-- The line after a line command has made it `ln` (R92 to R97): what follows, and the CONFLICT record of a blocking. -/
abbrev WantFollows (l : Fin 16) (ln : Line) (s t : State) : Prop :=
  LineFollows l ln s t ∧ t.waiting = s.waiting ++ conflictsOf false (some l) s t

/-- R91, R94: a line with entry `n` in its contribution set, or out of it: demand is set exactly while the set holds an
entry, and a fall of demand ends a silence. -/
def contributing (n : Fin 32) (b : Bool) (ln : Line) : Line :=
  let demand : Bool := decide (∃ m : Fin 32, (ln.contrib.set n b)[m] = true)
  { ln with
    contrib := ln.contrib.set n b
    demand := demand
    silenced := if ln.demand = true ∧ demand = false then false else ln.silenced }

/-- R84, R90 to R96: entry `n` enters or leaves the contribution set of its output line, and what follows on the line and
its partner; an entry with no output changes no line. -/
abbrev ContributionFollows (n : Fin 32) (b : Bool) (s t : State) : Prop :=
  (s.entries[n].cfg.output = none → t.lines = s.lines)
    ∧ ∀ l : Fin 16, s.entries[n].cfg.output = some l → LineFollows l (contributing n b s.lines[l]) s t

/-- R86, R88: shaping timer and phase of entry `n`, untouched. -/
abbrev ShapingKept (n : Fin 32) (s t : State) : Prop :=
  t.entries[n].shape = s.entries[n].shape ∧ t.entries[n].shapeVoid = s.entries[n].shapeVoid
    ∧ t.entries[n].phase = s.entries[n].phase

/-- R42, R86, R88: the shaping timer of entry `n` is loaded or cancelled to `timer`, which makes a claim that waited void
(log 11), and the phase becomes `phase`. -/
abbrev ShapingSet (n : Fin 32) (timer : Timer) (phase : Bool) (s t : State) : Prop :=
  t.entries[n].shape = timer ∧ t.entries[n].shapeVoid = s.entries[n].shapeVoid + voided s.entries[n].shape
    ∧ t.entries[n].phase = phase

/-- R15, R85, R86, R88: the contribution step of an edge of entry `n`. -/
abbrev ContributionStep (n : Fin 32) (dir : Direction) (s t : State) : Prop :=
  (s.entries[n].cfg.output = none → t.lines = s.lines ∧ ShapingKept n s t)
    ∧ (s.entries[n].cfg.output ≠ none →
        match s.entries[n].cfg.shaping, dir with
        | .level, .trip => ContributionFollows n true s t ∧ ShapingKept n s t
        | .level, .clear => ContributionFollows n false s t ∧ ShapingKept n s t
        | .pulse, .trip =>
          ContributionFollows n true s t
            ∧ ShapingSet n (.running s.entries[n].cfg.shapeTicks) s.entries[n].phase s t
        | .pulse, .clear => t.lines = s.lines ∧ ShapingKept n s t
        | .blink, .trip =>
          ContributionFollows n true s t ∧ ShapingSet n (.running s.entries[n].cfg.shapeTicks) true s t
        | .blink, .clear => ContributionFollows n false s t ∧ ShapingSet n .unloaded false s t)

/-- R14: an edge of entry `n` between `s` and `t`: the trip count and the three effects. -/
abbrev EdgeEffects (n : Fin 32) (dir : Direction) (v : Option Half) (fromTimer byRelease : Bool) (s t : State) : Prop :=
  t.entries[n].tripCount.toNat =
      (if dir = .trip then min 65535 (s.entries[n].tripCount.toNat + 1) else s.entries[n].tripCount.toNat)
    ∧ ContributionStep n dir s t
    ∧ t.captures = s.captures ++ capturesOf s.entries[n].cfg dir v t.entries[n].effLimit
    ∧ t.waiting = s.waiting ++ conflictsOf true s.entries[n].cfg.output s t
        ++ recordsOf n s.entries[n].cfg dir v fromTimer byRelease s.workItem

/-- R84: the state in which entry `n` produces an edge, if it does: the contribution step of an entry with an output
reaches the output unit behind the line command that waits there. -/
def reached (n : Fin 32) (dir : Option Direction) (s : State) : State :=
  if dir ≠ none ∧ s.entries[n].cfg.output ≠ none then lineTaken s else s

/-- No edge of entry `n` between `s` and `t`: no count, no effect. -/
abbrev NoEdge (n : Fin 32) (s t : State) : Prop :=
  t.entries[n].tripCount = s.entries[n].tripCount ∧ ShapingKept n s t
    ∧ t.lines = s.lines ∧ t.captures = s.captures ∧ t.waiting = s.waiting

/-- R56: RELEASE_ALL is to visit the entries from `k` on and has released `count`: one in progress, or one that the engine
has just taken. -/
abbrev Releasing (k count : Nat) (s : State) : Prop :=
  s.engine = .releasing k count ∨ (Served .releaseAll s ∧ k = 0 ∧ count = 0)

/-- R46 to R51: the state an active or inactive input takes an entry to, the edge it makes, and what its qualification
timer is loaded or cancelled to, `none` where it is left alone. -/
def moved (e : Entry) (active : Bool) : EntryState × Option Direction × Option Timer :=
  match e.state, active with
  | .inhibited, false => (.normal, none, none)
  | .normal, true =>
    if e.cfg.onDelay = 0 then (.tripped, some .trip, none) else (.pendingTrip, none, some (.running e.cfg.onDelay))
  | .pendingTrip, false => (.normal, none, some .unloaded)
  | .tripped, false =>
    if e.cfg.latch then (.held, none, none)
    else if e.cfg.offDelay = 0 then (.normal, some .clear, none)
    else (.pendingClear, none, some (.running e.cfg.offDelay))
  | .pendingClear, true => (.tripped, none, some .unloaded)
  | .held, true => (.tripped, none, none)
  | st, _ => (st, none, none)

/-- R42, R45: entry `n` of `t` is entry `n` of `s` after the transition on an input, with the edge value `v`. A timer that
is loaded anew or cancelled leaves a void claim behind exactly when it had expired (log 11). -/
abbrev Moves (n : Fin 32) (active : Bool) (v : Option Half) (s t : State) : Prop :=
  t.entries[n].state = (moved s.entries[n] active).1
    ∧ (match (moved s.entries[n] active).2.2 with
      | some timer =>
        t.entries[n].qual = timer ∧ t.entries[n].qualVoid = s.entries[n].qualVoid + voided s.entries[n].qual
      | none => t.entries[n].qual = s.entries[n].qual ∧ t.entries[n].qualVoid = s.entries[n].qualVoid)
    ∧ match (moved s.entries[n] active).2.1 with
      | some dir => EdgeEffects n dir v false false s t
      | none => NoEdge n s t

/-- What the handling of a bound entry `n` may write: the runtime fields of entry `n`, the lines, and what is handed to the
capture unit and the queue (R18, R37). -/
abbrev HandlingFrame (n : Fin 32) (s t : State) : Prop :=
  t = { s with entries := t.entries, lines := t.lines, captures := t.captures, waiting := t.waiting }
    ∧ OthersKept n s t
    ∧ t.entries[n].cfg = s.entries[n].cfg

/-- R37: entry `n` is bound to channel `c`. -/
abbrev Bound (c : Fin 16) (n : Fin 32) (s : State) : Prop :=
  s.entries[n].state ≠ .disarmed ∧ s.entries[n].cfg.channel = c

/-- R37: the engine is to handle entry `n` next in an evaluation of channel `c`: the first bound entry from `k` on. -/
abbrev HandlesNext (c : Fin 16) (input : EvalInput) (k : Nat) (n : Fin 32) (s : State) : Prop :=
  s.engine = .handling c input k ∧ k ≤ n.val ∧ Bound c n s ∧ ∀ m : Fin 32, k ≤ m.val → m < n → ¬ Bound c m s

/-- An evaluation is in progress (R37). -/
def inEvaluation (s : State) : Bool :=
  match s.engine with
  | .settling _ _ => true
  | .handling _ _ _ => true
  | .free => false
  | .taken _ => false
  | .ending => false
  | .releasing _ _ => false
  | .restarting _ _ _ _ _ => false

/-- A RELEASE_ALL has begun and has not ended (R56). -/
def inReleaseAll (s : State) : Bool :=
  match s.engine with
  | .releasing _ _ => true
  | .free => false
  | .taken _ => false
  | .settling _ _ => false
  | .handling _ _ _ => false
  | .ending => false
  | .restarting _ _ _ _ _ => false

/-! ## Channels (R121 to R129) -/

/-- R121: the outcome of an arrival for a channel, from the port or from the host. -/
def outcomeOf (fromPort : Bool) (ch : Channel) : ArrivalOutcome :=
  if ch.state = .off then .refusedOff
  else if ch.cfg.source = .either ∨ (ch.cfg.source = .port ∧ fromPort = true)
      ∨ (ch.cfg.source = .host ∧ fromPort = false) then .accepted
  else .refusedSource

/-- R122: the channel after an arrival: changed only when the arrival is accepted. -/
def arrived (fromPort : Bool) (raw : Half) (status : SampleStatus) (ch : Channel) : Channel :=
  if outcomeOf fromPort ch = .accepted then
    { ch with
      overruns := match ch.slot with
        | some (.sample _ _) => BitVec.ofNat 8 (min 255 (ch.overruns.toNat + 1))
        | some .fault => ch.overruns
        | none => ch.overruns
      slot := some (.sample raw status)
      fresh := if ch.cfg.freshWindow = 0 then .unloaded else .running ch.cfg.freshWindow
      arrivals := ch.arrivals + 1 }
  else ch

/-- R41, R159: a timer of the timer bank after a tick: a running count goes down by one, and a count of 1 makes it
expired. -/
def ticked : Timer → Timer
  | .unloaded => .unloaded
  | .running c => if c = 1 then .expired else .running (c - 1)
  | .expired => .expired

/-- The part without what a free engine's choice decides (R34): what it has taken, with the slot and the pointer, and the
numbers of work items, the model's own (log 8). -/
def unchosen (s : State) : State :=
  { s with
    engine := .free, pointer := 0, workItem := 0
    channels := s.channels.map fun ch => { ch with slot := none }
    waiting := s.waiting.map fun w => { w with item := 0 } }

/-- R125: `x` is the corrected value: the raw value less zero_offset, saturated. -/
abbrev CorrectedValue (cfg : ChannelConfig) (raw x : Half) : Prop :=
  x.toInt = max (-32768) (min 32767 (raw.toInt - cfg.zeroOffset.toInt))

/-- R125: the item settles as good and `x` enters the ring. -/
abbrev Enters (cfg : ChannelConfig) (raw : Half) (status : SampleStatus) (x : Half) : Prop :=
  match status with
  | .good => CorrectedValue cfg raw x
  | .overHigh => cfg.overrangeAsLimit = true ∧ x.toInt = 32767
  | .overLow => cfg.overrangeAsLimit = true ∧ x.toInt = -32768
  | .fault => False

/-- A record of the channel unit (Table 4-2), handed over on the occasion `b` only, within the work item `item` (log 8). -/
def channelRecordIf (b : Bool) (item : Nat) (k : RecordKind) (severity : BitVec 2) (v : Option Half) (aux : Nat) :
    List Waiting :=
  if b then
    [{ submitter := .channelUnit, item := item, loose := false,
       body := {
        kind := k, severity := severity, byRelease := false, valuePresent := v.isSome, fromTimer := false,
        value := v.getD 0, aux := BitVec.ofNat 4 aux } }]
  else []

/-! ## RESTART (R60, R107, R141, R154, R172) -/

/-- R60: the entries, each DISARMED one left and each armed one in its arm-time state. -/
abbrev EntriesRestarted (s t : State) : Prop :=
  ∀ n : Fin 32, (s.entries[n].state = .disarmed → t.entries[n] = s.entries[n])
    ∧ (s.entries[n].state ≠ .disarmed → ArmTime n s t)

/-- R107: a line. -/
def lineRestarted (ln : Line) : Line :=
  { ln with
    contrib := Vector.replicate 32 false, demand := false, override := .auto, silenced := false, want := false,
    hold := false, blocked := false, pinActive := false }

/-- R141: a channel. -/
def channelRestarted (ch : Channel) : Channel :=
  if ch.state = .off then { ch with overruns := 0, arrivals := 0 }
  else { ch with
    state := .waiting, ring := [], slot := none, quality := .good, value := 0, lastRaw := 0, lastStatus := .good,
    overruns := 0, arrivals := 0
    fresh := if ch.cfg.freshWindow = 0 then .unloaded else .running ch.cfg.freshWindow }

/-- R154: the sample port. -/
def portRestarted (p : Port) : Port :=
  { p with
    marker := 0, parity := 0, length := 0, unrouted := 0
    reception := if p.reception = .receiving then .waitLow else p.reception
    shiftReg := if p.reception = .receiving then 0 else p.shiftReg
    bitCount := if p.reception = .receiving then 0 else p.bitCount }

/-- R80: the queue holds the RESTART record alone, every loss mark clear, where `u` is the part after the submissions that
reached the queue before the record (log 8). -/
def queueRestarted (u : State) : EventQueue :=
  { u.queue with
    records := [{
      body := {
        kind := .restart, severity := 3, byRelease := false, valuePresent := false, fromTimer := false, value := 0,
        aux := 0 }
      seq := u.queue.nextSeq
      timestamp := u.timebase.timestamp
      lossBefore := false }]
    nextSeq := u.queue.nextSeq + 1
    marks := {
      entry := Vector.replicate 32 false, channel := Vector.replicate 16 false, line := Vector.replicate 16 false,
      device := false } }

/-- R65, R80, R172 step 4: the queue takes the RESTART record: what reached it before is taken first and removed with the
rest (log 8), and SEVERE is requested, and EVENTS where WATERMARK is 1. -/
abbrev QueueTakesRestart (s t : State) : Prop :=
  ∃ u : State, runAll (s.waiting.map fun w => .recordSubmission w.submitter) s = some u
    ∧ t = { s with
        waiting := []
        queue := queueRestarted u
        intr := { s.intr with
          flags := u.intr.flags ||| 0x02 ||| if s.queue.watermark = 1 then 0x01 else 0 } }

end Sys2Proof.Claims

open Sys2Proof Sys2Proof.Machine Sys2Proof.Safety Sys2Proof.Claims

/-! # The machine -/

/-- A step of a state with a command at the front of its queue is that command on the state with the queue's rest. -/
def Obligations.StepRunsFrontCommand : Prop :=
  ∀ (c : Instr) (rest : List Instr) (s : State), s.pending = c :: rest → step s = exec c { s with pending := rest }

/-- R156, with the model's choice that a step on an empty queue is one CLKIN period (log 3): from the beginning of an
interval the prescale count goes up by one a step, and the step that reaches (D + 1) × 64 is the tick. -/
def Obligations.TickPeriodInIdleSteps : Prop :=
  ∀ s : State, s.pending = [] → s.inReset = false → s.timebase.prescale = 0 →
    (∀ k : Nat, k < (s.timebase.dividerInUse.toNat + 1) * 64 →
        after k s = some { s with timebase := { s.timebase with prescale := k } })
      ∧ ∃ t : State, exec .tick s = .next t ∧ after ((s.timebase.dividerInUse.toNat + 1) * 64) s = some t

/-- Every command of the table, in every state, answers a next state and leaves the queue of commands as it is: the
block has no fault, and no command is refused by the model. The model's choice: an event that cannot take place leaves
the state as it is (log 2). -/
def Obligations.EveryCommandAnswersNext : Prop :=
  ∀ (c : Instr) (s : State), ∃ t : State, exec c s = .next t ∧ t.pending = s.pending

/-- Table 10-2: each command's opcode names it, and a known opcode is the opcode of the command it names. -/
def Obligations.OpcodesNameTheirCommands : Prop :=
  (∀ c : Command, decodeOpcode (encodeOpcode c) = some c)
    ∧ ∀ (op : Byte) (c : Command), decodeOpcode op = some c → op = encodeOpcode c

/-! # Images -/

/-- R4, R5, R104, R138: the configuration bytes of an entry, channel or line image, read back, are the stored
configuration, whatever the other bytes hold; and byte by byte the images are laid out, and the proposals read, as Tables
1-3, 7-5 and 5-3 say, with the codes of Tables 1-1 and 7-1. -/
def Obligations.ImagesReadBack : Prop :=
  ((∀ (e : Entry) (mark : Bool) (b : Vector Byte 32), ConfigLaw e.cfg →
      (∀ i : Fin 32, i.val < 22 → b[i] = (entryImage e mark)[i]) → parseEntry b = some e.cfg)
    ∧ (∀ (e : Entry) (mark : Bool), EntryBytes (entryImage e mark) e.cfg)
    ∧ ∀ (b : Vector Byte 32) (c : EntryConfig), ¬ OutOfRange b → (parseEntry b = some c ↔ EntryBytes b c))
  ∧ ((∀ (ch : Channel) (mark : Bool) (b : Vector Byte 32),
      (∀ i : Fin 32, i.val < 5 → b[i] = (channelImage ch mark)[i]) → parseChannel b = some ch.cfg)
    ∧ (∀ (ch : Channel) (mark : Bool), ChannelBytes (channelImage ch mark) ch.cfg)
    ∧ ∀ (b : Vector Byte 32) (c : ChannelConfig), parseChannel b = some c ↔ ChannelBytes b c)
  ∧ (∀ (ln : Line) (exclusive mark : Bool), parseLine (lineImage ln exclusive mark)[0] =
      { polarity := ln.polarity, cutMember := ln.cutMember, conflictEvent := ln.conflictEvent, exclusive := exclusive,
        conflictSeverity := ln.conflictSeverity })
    ∧ ∀ (b : Byte) (p : LineProposal), parseLine b = p ↔ LineByte b p

/-- R7: the range check fails exactly on the listed contents, and WRITE_ENTRY then completes with BAD_FIELD. cmd.seen,
the proposed image as the command sees it, is the model's own field (log 5), and the completion comes with the engine's
own event (log 15). -/
def Obligations.EntryRangeCheck : Prop :=
  (∀ b : Vector Byte 32, parseEntry b = none ↔ OutOfRange b)
    ∧ ∀ (s : State) (n : Fin 32), Served .writeEntry s → Index n s → OutOfRange s.cmd.seen →
        exec .writeEntry s = .next (served .badField s)

/-! # Laws every step keeps -/

/-- R62, R77: at most 64 records, their sequence numbers in the modulo-65536 order of admission; WATERMARK from 1 to 64. -/
def Obligations.StepKeepsQueueLaws : Prop :=
  ∀ s t : State, QueueLaw s → SequenceLaw s → step s = .next t → QueueLaw t ∧ SequenceLaw t

/-- R83, R94, R95, R99, R102: demand, want, hold, blocked and pin of every line, silence, exclusive pairs and cutoff. -/
def Obligations.StepKeepsOutputLaw : Prop :=
  ∀ s t : State, ResetLaw s → OutputLaw s → step s = .next t → OutputLaw t

/-- R7 to R9, R27, R40, R46, R51, R53: the laws of the watch table. -/
def Obligations.StepKeepsWatchLaw : Prop :=
  ∀ s t : State, WatchLaw s → step s = .next t → WatchLaw t

/-- R85, R86, R88, R90: an entry is in its line's contribution set exactly while it contributes by its shaping mode, and
its shaping timer and phase are in step with that; but between the engine's part of RESTART and the output unit's, no
entry contributes any more and the sets still stand, as the withdrawals wait for the output unit (R60, R107, R172; read
from them, log 6). -/
def Obligations.StepKeepsContributionLaw : Prop :=
  ∀ s t : State, ContributionLaw s → step s = .next t → ContributionLaw t

/-- R126, R131, R132, R137: ring, slot and freshness timer of every channel. -/
def Obligations.StepKeepsChannelsLaw : Prop :=
  ∀ s t : State, ChannelsLaw s → step s = .next t → ChannelsLaw t

/-- R143, R156, R39, R172, R110, R34, R35: the reception state, the prescale count, the command of a work item in progress
and the command that waits for the capture unit; and the engine is free only while no claim waits: no expiry, no table
command, no channel item. That commands and capture steps wait in one list is read from R110 (log 9). -/
def Obligations.StepKeepsPortTimebaseAndCommandLaws : Prop :=
  ∀ s t : State, ResetLaw s → PortLaw s → TimebaseLaw s → CommandLaw s → EngineLaw s → step s = .next t →
    PortLaw t ∧ TimebaseLaw t ∧ CommandLaw t ∧ EngineLaw t

/-- R177: while power-on reset lasts, no command but its end moves any block off its power-on values. -/
def Obligations.StepKeepsResetLaw : Prop :=
  ∀ s t : State, ResetLaw s → step s = .next t → ResetLaw t

/-- Right after power-on reset every law holds. -/
def Obligations.LawsHoldAtReset : Prop :=
  QueueLaw State.reset ∧ SequenceLaw State.reset ∧ OutputLaw State.reset ∧ WatchLaw State.reset
    ∧ ContributionLaw State.reset ∧ ChannelsLaw State.reset ∧ PortLaw State.reset ∧ TimebaseLaw State.reset
    ∧ CommandLaw State.reset ∧ EngineLaw State.reset ∧ ResetLaw State.reset

/-! # Rules of the whole part -/

/-- R70: the record at the head of the queue is removed only by POP, FLUSH, RESTART or power-on reset; its removal by POP
makes the next record the head, and an admission to an empty queue makes the admitted record the head. The model's
choice: a POP that is not PENDING leaves the records as they are (log 2). -/
def Obligations.HeadLeavesOnlyByPopFlushRestartOrReset : Prop :=
  ∀ (c : Instr) (s t : State), exec c s = .next t →
    (∀ (r : Record) (rest : List Record), s.queue.records = r :: rest →
        (c ≠ .pop → c ≠ .flush → c ≠ .powerOnReset → (∀ x : RestartExtent, c ≠ .restart x) →
          t.queue.records.head? = some r)
        ∧ (c = .pop → t.queue.records = if Waits .pop s then rest else r :: rest))
      ∧ (s.queue.records = [] → ∀ (r : Record) (rest : List Record), t.queue.records = r :: rest →
          rest = [] ∧ t.queue.nextSeq = r.seq + 1
            ∧ ((∀ x : RestartExtent, c ≠ .restart x) → r.seq = s.queue.nextSeq))

/-- R62, R66, R80: a command alters no record of the queue and reorders none; it admits at most one, at the tail, with
NEXT_SEQ and the timestamp TIMESTAMP holds. RESTART, which first takes the submissions that wait (R65, log 8), leaves its
own record alone in the queue. -/
def Obligations.QueueRecordsAreNeverAltered : Prop :=
  ∀ (c : Instr) (s t : State), exec c s = .next t →
    ((∃ x : RestartExtent, c = .restart x) →
        (t.queue.records = s.queue.records ∧ t.queue.nextSeq = s.queue.nextSeq)
          ∨ ∃ r : Record, t.queue.records = [r] ∧ r.body.kind = .restart ∧ t.queue.nextSeq = r.seq + 1
              ∧ r.timestamp = s.timebase.timestamp)
      ∧ ((∀ x : RestartExtent, c ≠ .restart x) → ∃ kept : List Record, kept.Sublist s.queue.records
        ∧ ((t.queue.records = kept ∧ (t.queue.nextSeq = s.queue.nextSeq ∨ c = .powerOnReset))
          ∨ ∃ r : Record, t.queue.records = kept ++ [r] ∧ r.seq = s.queue.nextSeq
              ∧ t.queue.nextSeq = s.queue.nextSeq + 1 ∧ r.timestamp = s.timebase.timestamp))

/-- R109, R1, R118, R82: which commands can change an accumulator, and which the configuration of an entry, a channel or
a line: those of WRITE_CHANNEL and WRITE_LINE change where that command is PENDING and is taken, by its row or before an
event that reaches its owner after it (R84, R120, log 12). -/
def Obligations.StoredValuesChangeOnlyByTheirCommands : Prop :=
  ∀ (c : Instr) (s t : State), exec c s = .next t →
    (t.accs ≠ s.accs → c = .captureStep ∨ c = .writeAcc ∨ c = .powerOnReset)
      ∧ ((∃ n : Fin 32, t.entries[n].cfg ≠ s.entries[n].cfg) → c = .writeEntry ∨ c = .powerOnReset)
      ∧ ((∃ k : Fin 16, t.channels[k].cfg ≠ s.channels[k].cfg) →
          c = .powerOnReset ∨ (Waits .writeChannel s ∧ t.cmd.state = .done))
      ∧ ((t.exclusive ≠ s.exclusive
          ∨ ∃ l : Fin 16, t.lines[l].polarity ≠ s.lines[l].polarity ∨ t.lines[l].cutMember ≠ s.lines[l].cutMember
            ∨ t.lines[l].conflictEvent ≠ s.lines[l].conflictEvent
            ∨ t.lines[l].conflictSeverity ≠ s.lines[l].conflictSeverity) →
          c = .powerOnReset ∨ (Waits .writeLine s ∧ t.cmd.state = .done))

/-- R174 to R176: no block clears a flag on its own; INT_MASK changes only by a host write or power-on reset. -/
def Obligations.FlagsAreClearedOnlyByHostOrResets : Prop :=
  ∀ (c : Instr) (s t : State), exec c s = .next t → c ≠ .powerOnReset →
    ((∀ v : Byte, c ≠ .intFlagsClear v ∧ c ≠ .registerWrite 0x05 v) → (∀ x : RestartExtent, c ≠ .restart x) →
        s.intr.flags &&& t.intr.flags = s.intr.flags)
      ∧ ((∀ v : Byte, c ≠ .intMaskWrite v ∧ c ≠ .registerWrite 0x06 v) → t.intr.mask = s.intr.mask)

/-! # Refused commands -/

/-- Table 10-2, Note: an index above the highest of its kind completes with BAD_INDEX, and nothing else changes;
a table command ends the engine's work item, and READ_ACC and WRITE_ACC leave the events that wait for the capture unit
(R39, R110; log 9). -/
def Obligations.IndexAboveRangeIsRefused : Prop :=
  ∀ s : State,
    (∀ p ∈ [(Command.readEntry, Instr.readEntry), (.writeEntry, .writeEntry), (.arm, .arm), (.disarm, .disarm),
        (.release, .release)],
      Served p.1 s → 32 ≤ s.cmd.captured0.toNat → exec p.2 s = .next (served .badIndex s))
      ∧ (∀ p ∈ [(Command.enable, Instr.enable), (.disable, .disable)],
        Served p.1 s → 16 ≤ s.cmd.captured0.toNat → exec p.2 s = .next (served .badIndex s))
      ∧ (∀ p ∈ [(Command.readChannel, Instr.readChannel), (.writeChannel, .writeChannel), (.readLine, .readLine),
          (.writeLine, .writeLine), (.silence, .silence), (.override, .override)],
        Waits p.1 s → 16 ≤ s.cmd.captured0.toNat → exec p.2 s = .next (completed .badIndex s))
      ∧ ∀ p ∈ [(Command.readAcc, Instr.readAcc), (.writeAcc, .writeAcc)], ∀ rest : List CaptureEvent,
        Waits p.1 s → s.captures = .command :: rest → 8 ≤ s.cmd.captured0.toNat →
          exec p.2 s = .next (completed .badIndex { s with captures := rest })

/-- R53 to R55, R136, R137, R39: the refusals of ARM, DISARM, RELEASE, ENABLE and DISABLE by the state of the entry or
channel; nothing but the completion happens, and the end of the engine's work item with it. -/
def Obligations.TableCommandsRefusedByState : Prop :=
  ∀ (s : State) (n : Fin 32) (c : Fin 16),
    (Served .arm s → Index n s → s.entries[n].state ≠ .disarmed → exec .arm s = .next (served .already s))
      ∧ (Served .arm s → Index n s → s.entries[n].state = .disarmed →
          s.channels[s.entries[n].cfg.channel].state = .off → exec .arm s = .next (served .channelOff s))
      ∧ (Served .disarm s → Index n s → s.entries[n].state = .disarmed →
          exec .disarm s = .next (served .notArmed s))
      ∧ (Served .release s → Index n s → s.entries[n].state = .disarmed →
          exec .release s = .next (served .notArmed s))
      ∧ (Served .release s → Index n s → s.entries[n].state ≠ .disarmed → s.entries[n].state ≠ .held →
          exec .release s = .next (served .notHeld s))
      ∧ (Served .enable s → Index c s → s.channels[c].state ≠ .off →
          exec .enable s = .next (served .already s))
      ∧ (Served .disable s → Index c s → (∃ m : Fin 32, Bound c m s) →
          exec .disable s = .next (served .inUse s))
      ∧ (Served .disable s → Index c s → (¬ ∃ m : Fin 32, Bound c m s) → s.channels[c].state = .off →
          exec .disable s = .next (served .already s))

/-- R73, R93, R94, R101, R105, R139: the refusals of the commands the other blocks serve, in the order of their checks;
nothing but the completion happens. cmd.seen, the proposal as the command sees it, is the model's own field (log 5). -/
def Obligations.OwnerCommandsRefusedByState : Prop :=
  ∀ (s : State) (l c : Fin 16),
    (Waits .writeChannel s → Index c s → s.cmd.seen[0].toNat % 4 = 3 →
        exec .writeChannel s = .next (completed .badField s))
      ∧ (Waits .writeChannel s → Index c s → s.cmd.seen[0].toNat % 4 ≠ 3 →
          s.cmd.seen[0].toNat / 4 % 4 ≠ avgLenCode s.channels[c].cfg.avgLen → s.channels[c].state ≠ .off →
          exec .writeChannel s = .next (completed .channelOn s))
      ∧ (Waits .writeLine s → Index l s → s.cmd.seen[0].getLsbD 1 ≠ s.lines[l].cutMember → s.shutoff = true →
          exec .writeLine s = .next (completed .shutoffActive s))
      ∧ (Waits .writeLine s → Index l s → s.cmd.seen[0].getLsbD 1 ≠ s.lines[l].cutMember → s.shutoff = false →
          (∃ k : Fin 16, s.lines[k].cut = true) → exec .writeLine s = .next (completed .cutActive s))
      ∧ (Waits .writeLine s → Index l s →
          (s.cmd.seen[0].getLsbD 1 = s.lines[l].cutMember
            ∨ s.shutoff = false ∧ ∀ k : Fin 16, s.lines[k].cut = false) →
          s.cmd.seen[0].getLsbD 3 = true → s.lines[l].hold = true → s.lines[partner l].hold = true →
          exec .writeLine s = .next (completed .pairBusy s))
      ∧ (Waits .silence s → Index l s → (s.lines[l].demand = false ∨ s.lines[l].override ≠ .auto) →
          exec .silence s = .next (completed .noDemand s))
      ∧ (Waits .override s → Index l s → 2 < s.cmd.captured1.toNat →
          exec .override s = .next (completed .badField s))
      ∧ (Waits .resume s → s.shutoff = true → exec .resume s = .next (completed .shutoffActive s))
      ∧ (Waits .pop s → s.queue.records = [] → exec .pop s = .next (completed .queueEmpty s))

/-! # Table commands -/

/-- R5, R4, Table 1-3: READ_ENTRY writes the whole image of the entry into staging: bytes 0 to 21 show the stored
configuration field by field and read back as it, bytes 22 to 31 show the runtime fields, unused bits read 0. An
expiry that waits meanwhile changes nothing of this: an expired timer shows the remaining count 0 (R58). -/
def Obligations.ReadEntryWritesTheImage : Prop :=
  ∀ (s : State) (n : Fin 32), Served .readEntry s → Index n s →
    ∃ b : Vector Byte 32, exec .readEntry s = .next (served .ok { s with staging := b })
      ∧ EntryBytes b s.entries[n].cfg
      ∧ (ConfigLaw s.entries[n].cfg → parseEntry b = some s.entries[n].cfg)
      ∧ b[0].toNat < 64 ∧ b[1].toNat < 128 ∧ b[23].toNat < 32
      ∧ b[22].toNat = entryStateCode s.entries[n].state
      ∧ b[23].getLsbD 0 = s.entries[n].condition
      ∧ b[23].getLsbD 1 = s.entries[n].lastValue.isSome
      ∧ b[23].getLsbD 2 = s.queue.marks.entry[n]
      ∧ b[23].getLsbD 3 = (match s.entries[n].shape with | .unloaded => false | .running _ => true | .expired => true)
      ∧ b[23].getLsbD 4 = s.entries[n].phase
      ∧ b[25] ++ b[24] = countShown s.entries[n].qual
      ∧ b[27] ++ b[26] = s.entries[n].effLimit
      ∧ b[29] ++ b[28] = s.entries[n].tripCount
      ∧ b[31] ++ b[30] = s.entries[n].lastValue.getD 0

/-- R6, R8 to R12, Tables 1-3 and 1-4: the checks of WRITE_ENTRY after the range check, in their order, and what a write
that passes them stores: the configuration that bytes 0 to 21 spell, for entry n, and nothing else, also while an expiry
waits, which is taken after it (R12, R58). cmd.seen, the image as the command sees it, is the model's own field
(log 5). -/
def Obligations.WriteEntryChecksInOrderAndStores : Prop :=
  ∀ (s : State) (n : Fin 32) (c : EntryConfig), Served .writeEntry s → Index n s → ¬ OutOfRange s.cmd.seen →
    EntryBytes s.cmd.seen c →
    (HysteresisTooWide c → exec .writeEntry s = .next (served .badField s))
      ∧ (¬ HysteresisTooWide c → s.entries[n].state ≠ .disarmed → ¬ FixedFieldsEqual s.entries[n].cfg c →
          exec .writeEntry s = .next (served .armed s))
      ∧ (¬ HysteresisTooWide c → (s.entries[n].state ≠ .disarmed → FixedFieldsEqual s.entries[n].cfg c) →
          TrackTooDeep n c.track s → exec .writeEntry s = .next (served .trackDepth s))
      ∧ (¬ HysteresisTooWide c → (s.entries[n].state ≠ .disarmed → FixedFieldsEqual s.entries[n].cfg c) →
          ¬ TrackTooDeep n c.track s →
          exec .writeEntry s =
            .next (served .ok { s with entries := s.entries.set n { s.entries[n] with cfg := c } }))

/-- R53: ARM of a DISARMED entry on a channel that is not OFF puts it into its arm-time state, and nothing else. -/
def Obligations.ArmGivesTheArmTimeState : Prop :=
  ∀ (s : State) (n : Fin 32), Served .arm s → Index n s → s.entries[n].state = .disarmed →
    s.channels[s.entries[n].cfg.channel].state ≠ .off →
    ∃ t : State, exec .arm s = .next (served .ok t)
      ∧ t = { s with entries := t.entries } ∧ OthersKept n s t ∧ ArmTime n s t

/-- R42, R54, R90 to R96: DISARM of an armed entry is silent: the state, both timers and the contribution end, with what
follows on the line, no edge, no record; the condition flag, last value, effective limit and trip count stay; a claim that
waited becomes void. The counts of void claims are the model's own (log 11). -/
def Obligations.DisarmIsSilent : Prop :=
  ∀ (s : State) (n : Fin 32), OutputLaw s → Served .disarm s → Index n s → s.entries[n].state ≠ .disarmed →
    ∃ t : State, exec .disarm s = .next (served .ok t)
      ∧ t = { s with entries := t.entries, lines := t.lines }
      ∧ OthersKept n s t
      ∧ t.entries[n] = { s.entries[n] with
          state := .disarmed
          qual := .unloaded
          qualVoid := s.entries[n].qualVoid + voided s.entries[n].qual
          shape := .unloaded
          shapeVoid := s.entries[n].shapeVoid + voided s.entries[n].shape
          phase := false }
      ∧ ContributionFollows n false s t

/-- R55: RELEASE of a HELD entry takes it to NORMAL with a clear edge that carries BY_RELEASE and the last value. The
number of the work item is the model's own (log 8). -/
def Obligations.ReleaseMakesAClearEdge : Prop :=
  ∀ (s : State) (n : Fin 32), OutputLaw s → Served .release s → Index n s → s.entries[n].state = .held →
    ∃ t : State, exec .release s = .next (served .ok t)
      ∧ t = { s with entries := t.entries, lines := t.lines, captures := t.captures, waiting := t.waiting }
      ∧ OthersKept n s t
      ∧ t.entries[n] = { s.entries[n] with
          state := .normal, shape := t.entries[n].shape, shapeVoid := t.entries[n].shapeVoid,
          phase := t.entries[n].phase }
      ∧ EdgeEffects n .clear s.entries[n].lastValue false true s t

/-- R56: RELEASE_ALL releases every HELD entry, each exactly as by RELEASE with all its effects, in index order, leaves
every other entry as it was, and completes with the count in CMD_ARG0: what one event of it does, that it taken to its
end is its events one after another, and what it leaves as a whole. A line command that waits is taken before a release
that reaches its block, in states where one can wait (R84). The division into events is read from R56 and R38
(log 6), and the number of the work item is the model's own (log 8). -/
def Obligations.ReleaseAllReleasesEveryHeldEntry : Prop :=
  (∀ s : State, OutputLaw s → Served .releaseAll s →
    ∃ t : State, exec (.releaseAll .finish) s = .next (served .ok t)
      ∧ t = { s with
          engine := t.engine, entries := t.entries, lines := t.lines, captures := t.captures, waiting := t.waiting
          cmd := { s.cmd with arg0 := t.cmd.arg0 } }
      ∧ t.cmd.arg0.toNat = (List.finRange 32).countP (fun n => s.entries[n].state == .held)
      ∧ (∀ n : Fin 32, s.entries[n].state ≠ .held → t.entries[n] = s.entries[n])
      ∧ (∀ n : Fin 32, s.entries[n].state = .held → t.entries[n] = { s.entries[n] with
          state := .normal, shape := t.entries[n].shape, shapeVoid := t.entries[n].shapeVoid,
          phase := t.entries[n].phase })
      ∧ t.captures = s.captures ++ (List.finRange 32).flatMap (fun n =>
          if s.entries[n].state = .held then
            capturesOf s.entries[n].cfg .clear s.entries[n].lastValue s.entries[n].effLimit
          else [])
      ∧ t.waiting = s.waiting ++ (List.finRange 32).flatMap (fun n =>
          if s.entries[n].state = .held then
            recordsOf n s.entries[n].cfg .clear s.entries[n].lastValue false true s.workItem
          else []))
    ∧ (∀ (s : State) (k count : Nat) (n : Fin 32), OutputLaw s → Releasing k count s → k ≤ n.val →
      s.entries[n].state = .held → (∀ m : Fin 32, k ≤ m.val → m < n → s.entries[m].state ≠ .held) →
      ∃ t : State, exec (.releaseAll .advance) s = .next t
        ∧ t = { reached n (some .clear) s with
            engine := .releasing (n.val + 1) (count + 1)
            entries := t.entries, lines := t.lines, captures := t.captures, waiting := t.waiting }
        ∧ OthersKept n s t
        ∧ t.entries[n] = { s.entries[n] with
            state := .normal, shape := t.entries[n].shape, shapeVoid := t.entries[n].shapeVoid,
            phase := t.entries[n].phase }
        ∧ EdgeEffects n .clear s.entries[n].lastValue false true (reached n (some .clear) s) t)
    ∧ (∀ (s : State) (k count : Nat), Releasing k count s → count < 256 →
      (∀ m : Fin 32, k ≤ m.val → s.entries[m].state ≠ .held) →
      ∃ x : Byte, x.toNat = count
        ∧ exec (.releaseAll .advance) s = .next (served .ok { s with cmd := { s.cmd with arg0 := x } }))
    ∧ ∀ (s : State) (k count : Nat), Releasing k count s →
      ∃ t u : State, exec (.releaseAll .advance) s = .next t ∧ exec (.releaseAll .finish) s = .next u
        ∧ inReleaseAll u = false
        ∧ (inReleaseAll t = false → u = t)
        ∧ (inReleaseAll t = true → exec (.releaseAll .finish) t = .next u)

/-- R136, R137: ENABLE of an OFF channel starts it, DISABLE of a channel no armed entry is bound to stops it; the
configuration is kept and nothing else changes. -/
def Obligations.EnableStartsAndDisableStopsAChannel : Prop :=
  ∀ (s : State) (c : Fin 16), Index c s →
    (Served .enable s → s.channels[c].state = .off →
        exec .enable s = .next (served .ok { s with channels := s.channels.set c { s.channels[c] with
          state := .waiting, ring := [], slot := none, quality := .good, value := 0, lastRaw := 0, lastStatus := .good,
          overruns := 0, arrivals := 0
          fresh := if s.channels[c].cfg.freshWindow = 0 then .unloaded
            else .running s.channels[c].cfg.freshWindow } }))
      ∧ (Served .disable s → (¬ ∃ m : Fin 32, Bound c m s) → s.channels[c].state ≠ .off →
        exec .disable s = .next (served .ok { s with channels := s.channels.set c { s.channels[c] with
          state := .off, ring := [], slot := none, fresh := .unloaded } }))

/-- R172, R173 and the effects of the blocks (R60, R107, R141, R154, R176, R80): what RESTART leaves of every block, and
that the engine then comes free. The submissions that reached the queue before are taken by it first, and then removed
with the rest: nothing waits after it, and the RESTART record has the number after theirs (log 8). The counts of void
claims are the model's own (log 11). -/
def Obligations.RestartReturnsEveryBlock : Prop :=
  ∀ s : State, Served .restart s →
    ∃ t u : State, exec (.restart .finish) s = .next (comeFree t)
      ∧ runAll (s.waiting.map fun w => .recordSubmission w.submitter) { s with intr := { s.intr with flags := 0 } } =
          some u
      ∧ t = { s with
          engine := t.engine, entries := t.entries, lines := t.lines, oe := false, pointer := 15, channels := t.channels
          port := portRestarted s.port
          queue := queueRestarted u
          waiting := []
          cmd := { s.cmd with result := .ok, state := .done }
          intr := { s.intr with
            flags := u.intr.flags ||| 0x22 ||| if s.queue.watermark = 1 then 0x01 else 0 } }
      ∧ (s.waiting = [] → u = { s with intr := { s.intr with flags := 0 } })
      ∧ u.timebase = s.timebase
      ∧ EntriesRestarted s t
      ∧ (∀ l : Fin 16, t.lines[l] = lineRestarted s.lines[l])
      ∧ ∀ c : Fin 16, t.channels[c] = channelRestarted s.channels[c]

/-- R172, R173, R60, R107, R141, R154, R176, R80: RESTART part by part. A part out of its turn is no event, in every
state: no part comes before the engine's, which the engine takes as its work item; the output unit, the channel unit and
the sample port each take theirs once, in any order; the interrupt unit's comes after the three, the record after it, the
completion last. What each part in its turn does, and nothing else; and the parts together are RESTART taken whole. That a
part out of its turn leaves the state as it is, and the division into parts, are the model's (logs 2 and 6). -/
def Obligations.RestartPartsMakeTheRestart : Prop :=
  (∀ (s : State) (p : RestartPart), (∀ out ch port irq rec : Bool, s.engine ≠ .restarting out ch port irq rec) →
      (p ≠ .engine ∨ ¬ Served .restart s) → exec (.restart (.part p)) s = .next s)
    ∧ (∀ (s : State) (out ch port irq rec : Bool), s.engine = .restarting out ch port irq rec →
      exec (.restart (.part .engine)) s = .next s
        ∧ (out = true → exec (.restart (.part .output)) s = .next s)
        ∧ (ch = true → exec (.restart (.part .channel)) s = .next s)
        ∧ (port = true → exec (.restart (.part .port)) s = .next s)
        ∧ (out = false ∨ ch = false ∨ port = false ∨ irq = true → exec (.restart (.part .interrupt)) s = .next s)
        ∧ (out = false ∨ ch = false ∨ port = false ∨ irq = false ∨ rec = true →
            exec (.restart (.part .queue)) s = .next s)
        ∧ (out = false ∨ ch = false ∨ port = false ∨ irq = false ∨ rec = false →
            exec (.restart (.part .completion)) s = .next s))
    ∧ (∀ s : State, Served .restart s →
      ∃ t : State, exec (.restart (.part .engine)) s = .next t
        ∧ t = { s with engine := .restarting false false false false false, entries := t.entries, pointer := 15 }
        ∧ EntriesRestarted s t)
    ∧ (∀ (s : State) (out ch port irq rec : Bool), s.engine = .restarting out ch port irq rec →
      (out = false → ∃ t : State, exec (.restart (.part .output)) s = .next t
          ∧ t = { s with engine := .restarting true ch port irq rec, lines := t.lines, oe := false }
          ∧ ∀ l : Fin 16, t.lines[l] = lineRestarted s.lines[l])
        ∧ (ch = false → ∃ t : State, exec (.restart (.part .channel)) s = .next t
          ∧ t = { s with engine := .restarting out true port irq rec, channels := t.channels }
          ∧ ∀ c : Fin 16, t.channels[c] = channelRestarted s.channels[c])
        ∧ (port = false → exec (.restart (.part .port)) s = .next { s with
            engine := .restarting out ch true irq rec, port := portRestarted s.port })
        ∧ (out = true → ch = true → port = true → irq = false → exec (.restart (.part .interrupt)) s = .next { s with
            engine := .restarting true true true true rec, intr := { s.intr with flags := 0 } })
        ∧ (out = true → ch = true → port = true → irq = true → rec = false →
            ∃ t : State, exec (.restart (.part .queue)) s =
                .next { t with engine := .restarting true true true true true }
              ∧ QueueTakesRestart s t)
        ∧ (out = true → ch = true → port = true → irq = true → rec = true →
            exec (.restart (.part .completion)) s = .next (served .ok s)))
    ∧ ∀ s : State, Served .restart s →
      ∀ ps ∈ [[RestartPart.output, .channel, .port], [.output, .port, .channel], [.channel, .output, .port],
        [.channel, .port, .output], [.port, .output, .channel], [.port, .channel, .output]],
      runAll ((RestartPart.engine :: (ps ++ [RestartPart.interrupt, .queue, .completion])).map
          fun p => .restart (.part p)) s =
        runAll [.restart .finish] s

/-! # Commands of the other blocks -/

/-- R138, R104, R115, Tables 7-5, 5-3 and 6-2: READ_CHANNEL and READ_LINE write the whole image into staging, READ_ACC
the four bytes of the accumulator and no other byte, when it is the event that has waited longest (R110, log 9). -/
def Obligations.ReadCommandsWriteTheirImages : Prop :=
  (∀ (s : State) (c : Fin 16), ChannelLaw s.channels[c] → Waits .readChannel s → Index c s →
    ∃ b : Vector Byte 32, exec .readChannel s = .next (completed .ok { s with staging := b })
      ∧ ChannelBytes b s.channels[c].cfg
      ∧ b[5].toNat = channelStateCode s.channels[c].state + 4 * (s.channels[c].quality == .invalid).toNat
          + 8 * s.queue.marks.channel[c].toNat
          + 16 * (match s.channels[c].slot with | none => 0 | some (.sample _ _) => 1 | some .fault => 2)
      ∧ b[7] ++ b[6] = s.channels[c].value
      ∧ b[9] ++ b[8] = s.channels[c].lastRaw
      ∧ b[10].toNat = sampleStatusCode s.channels[c].lastStatus
      ∧ b[11].toNat = s.channels[c].ring.length
      ∧ (∀ i : Fin 8, b[2 * i.val + 13]'(by omega) ++ b[2 * i.val + 12]'(by omega) = s.channels[c].ring.getD i.val 0)
      ∧ b[29] ++ b[28] = freshShown s.channels[c].fresh
      ∧ b[30] = s.channels[c].overruns ∧ b[31] = s.channels[c].arrivals)
    ∧ (∀ (s : State) (l : Fin 16), Waits .readLine s → Index l s →
      ∃ b : Vector Byte 32, exec .readLine s = .next (completed .ok { s with staging := b })
        ∧ LineByte b[0] {
            polarity := s.lines[l].polarity, cutMember := s.lines[l].cutMember,
            conflictEvent := s.lines[l].conflictEvent, exclusive := s.exclusive[pairOf l],
            conflictSeverity := s.lines[l].conflictSeverity }
        ∧ b[0].toNat < 64 ∧ b[1].toNat = overrideCode s.lines[l].override
        ∧ b[2].getLsbD 0 = s.lines[l].demand ∧ b[2].getLsbD 1 = s.lines[l].silenced
        ∧ b[2].getLsbD 2 = s.lines[l].want ∧ b[2].getLsbD 3 = s.lines[l].hold
        ∧ b[2].getLsbD 4 = s.lines[l].blocked ∧ b[2].getLsbD 5 = s.lines[l].cut
        ∧ b[2].getLsbD 6 = s.lines[l].pinActive ∧ b[2].getLsbD 7 = s.queue.marks.line[l]
        ∧ b[3].toNat = (List.finRange 32).countP (fun n => s.lines[l].contrib[n])
        ∧ (∀ n : Fin 32, (b[n.val / 8 + 4]'(by omega)).getLsbD (n.val % 8) = s.lines[l].contrib[n])
        ∧ ∀ i : Fin 32, 8 ≤ i.val → b[i] = 0)
    ∧ ∀ (s : State) (a : Fin 8) (rest : List CaptureEvent), Waits .readAcc s → s.captures = .command :: rest →
      Index a s →
      ∃ b : Vector Byte 32, exec .readAcc s = .next (completed .ok { s with staging := b, captures := rest })
        ∧ b[3] ++ b[2] ++ b[1] ++ b[0] = s.accs[a] ∧ ∀ i : Fin 32, 4 ≤ i.val → b[i] = s.staging[i]

/-- R140, R139 and R116: WRITE_CHANNEL with a source code below 3, and avg_len as stored or the channel OFF, stores the
proposed configuration; WRITE_ACC, when it is the event that has waited longest (R110, log 9), stores the four
staging bytes. No runtime field, no staging byte changes. cmd.seen, the staging area as the command sees it, is the
model's own field (log 5). -/
def Obligations.WriteChannelAndWriteAccStore : Prop :=
  (∀ (s : State) (c : Fin 16), Waits .writeChannel s → Index c s → s.cmd.seen[0].toNat % 4 ≠ 3 →
    (s.cmd.seen[0].toNat / 4 % 4 = avgLenCode s.channels[c].cfg.avgLen ∨ s.channels[c].state = .off) →
    ∃ cfg : ChannelConfig,
      exec .writeChannel s =
          .next (completed .ok { s with channels := s.channels.set c { s.channels[c] with cfg := cfg } })
        ∧ ChannelBytes s.cmd.seen cfg)
    ∧ ∀ (s : State) (a : Fin 8) (rest : List CaptureEvent), Waits .writeAcc s → s.captures = .command :: rest →
      Index a s →
      exec .writeAcc s = .next (completed .ok { s with
        captures := rest
        accs := s.accs.set a (s.cmd.seen[3] ++ s.cmd.seen[2] ++ s.cmd.seen[1] ++ s.cmd.seen[0]) })

/-- R106, R105, R102: WRITE_LINE that passes its checks stores the configuration of the line and the pair's flag; where it
clears the flag, a blocked line of the pair takes hold, without a record; the line's electrical level follows the new
polarity. cmd.seen, the proposal as the command sees it, is the model's own field (log 5). -/
def Obligations.WriteLineStoresAndFreesTheBlockedLine : Prop :=
  ∀ (s : State) (l : Fin 16), Waits .writeLine s → Index l s →
    (s.cmd.seen[0].getLsbD 1 = s.lines[l].cutMember ∨ s.shutoff = false ∧ ∀ k : Fin 16, s.lines[k].cut = false) →
    ¬ (s.cmd.seen[0].getLsbD 3 = true ∧ s.lines[l].hold = true ∧ s.lines[partner l].hold = true) →
    ∃ t : State, exec .writeLine s = .next t
      ∧ t = completed .ok { s with lines := t.lines, exclusive := s.exclusive.set (pairOf l) (s.cmd.seen[0].getLsbD 3) }
      ∧ OtherLinesKept l s t
      ∧ outLevel t l = (if s.cmd.seen[0].getLsbD 0 then !t.lines[l].pinActive else t.lines[l].pinActive)
      ∧ ∀ k : Fin 16, k = l ∨ k = partner l →
          ∃ ln : Line, (k ≠ l → ln = s.lines[k])
            ∧ (k = l → ln = { s.lines[l] with
                polarity := if s.cmd.seen[0].getLsbD 0 then .activeLow else .activeHigh
                cutMember := s.cmd.seen[0].getLsbD 1
                conflictEvent := s.cmd.seen[0].getLsbD 2
                conflictSeverity := s.cmd.seen[0].extractLsb' 4 2 })
            ∧ t.lines[k] =
              if s.exclusive[pairOf l] = true ∧ s.cmd.seen[0].getLsbD 3 = false ∧ s.lines[k].blocked = true then
                { ln with blocked := false, hold := true, pinActive := s.oe && !s.lines[k].cut }
              else ln

/-- R94, R96: SILENCE of a line in demand under AUTO sets silenced, and want, hold and pin follow, with the handover. -/
def Obligations.SilenceQuietsALineInDemand : Prop :=
  ∀ (s : State) (l : Fin 16), OutputLaw s → Waits .silence s → Index l s → s.lines[l].demand = true →
    s.lines[l].override = .auto →
    ∃ t : State, exec .silence s = .next t
      ∧ t = completed .ok { s with lines := t.lines, waiting := t.waiting }
      ∧ WantFollows l { s.lines[l] with silenced := true } s t

/-- R93, R92, R95 to R97: OVERRIDE sets the mode, ends a silence on leaving AUTO, and want, hold, blocked and pin follow,
with the CONFLICT record of a blocking or the handover of a fall. -/
def Obligations.OverrideSetsTheMode : Prop :=
  ∀ (s : State) (l : Fin 16) (m : Override), OutputLaw s → Waits .override s → Index l s →
    s.cmd.captured1.toNat = overrideCode m →
    ∃ t : State, exec .override s = .next t
      ∧ t = completed .ok { s with lines := t.lines, waiting := t.waiting }
      ∧ WantFollows l { s.lines[l] with
          override := m
          silenced := if s.lines[l].override = .auto ∧ m ≠ .auto then false else s.lines[l].silenced } s t

/-- R84, R99 to R102: an assertion of SHUTOFF# cuts the members and hands over CUTOFF, its release changes no line, and each
comes behind the line command that waits with the output unit; RESUME completes with SHUTOFF_ACTIVE while SHUTOFF# is
asserted, else it ends every cut; hold, want and blocked stay. That the CUTOFF record waits behind what reached the queue
before it is read from R65 (log 8), that a line command reaches its owner at the CMD_OP write from R167 (log 12); that a
release of SHUTOFF# while it is high already is no event, and leaves the state as it is, is the model's choice (log 2). -/
def Obligations.CutoffAndResume : Prop :=
  (∀ s : State, s.shutoff = false → s.inReset = false →
    ∃ t : State, exec .shutoffAssert s = .next t
      ∧ t = { lineTaken s with
          shutoff := true
          lines := t.lines
          waiting := (lineTaken s).waiting ++ [{ submitter := .outputUnit, item := s.workItem, loose := false, body := {
            kind := .cutoff, severity := 3, byRelease := false, valuePresent := false, fromTimer := false, value := 0,
            aux := 0 } }]
          intr := { (lineTaken s).intr with flags := (lineTaken s).intr.flags ||| 0x08 } }
      ∧ ∀ l : Fin 16, t.lines[l] = { (lineTaken s).lines[l] with
          cut := (lineTaken s).lines[l].cut || (lineTaken s).lines[l].cutMember
          pinActive := (lineTaken s).lines[l].hold && s.oe
            && !((lineTaken s).lines[l].cut || (lineTaken s).lines[l].cutMember) })
    ∧ (∀ s : State, (s.shutoff = true → exec .shutoffRelease s = .next { lineTaken s with shutoff := false })
        ∧ (s.shutoff = false → exec .shutoffRelease s = .next s))
    ∧ (∀ s : State, Waits .resume s → s.shutoff = true → exec .resume s = .next (completed .shutoffActive s))
    ∧ ∀ s : State, Waits .resume s → s.shutoff = false →
      ∃ t : State, exec .resume s = .next t
        ∧ t = completed .ok { s with lines := t.lines }
        ∧ ∀ l : Fin 16, t.lines[l] = { s.lines[l] with cut := false, pinActive := s.lines[l].hold && s.oe }

/-- R102, R151, R163, R181: a write of CONTROL stores both bits; a change of OE sets or clears every pin, a change of
PORT_EN disables the port or moves it into IDLE or WAIT_LOW by the level of SFRM, each change behind the command that
waits with the block it reaches (R84, R144, log 12); and the electrical level of every pin:
high exactly while the pin is active under ACTIVE_HIGH or inactive under ACTIVE_LOW. The rows are one write (log 13), and
dataOut is the model's own field (log 4). -/
def Obligations.ControlWriteSetsPinsAndPort : Prop :=
  (∀ (s : State) (l : Fin 16),
    (outLevel s l = true ↔ (s.lines[l].pinActive = true ↔ s.lines[l].polarity = .activeHigh))
      ∧ (OutputLaw s → (outLevel s l = true ↔
          ((s.lines[l].hold = true ∧ s.oe = true ∧ s.lines[l].cut = false) ↔ s.lines[l].polarity = .activeHigh))))
  ∧ ∀ (s : State) (v : Byte), s.inReset = false →
    ∃ t u w : State, (∀ c ∈ [Instr.oeChange v, .portEnChange v, .registerWrite 0x03 v], exec c s = .next t)
      ∧ (u = if v.getLsbD 0 = s.oe then s else lineTaken s)
      ∧ (w = if v.getLsbD 1 = s.port.enabled then u else portTaken u)
      ∧ t = { w with oe := v.getLsbD 0, lines := t.lines, port := t.port, dataOut := none }
      ∧ (v.getLsbD 0 = s.oe → t.lines = s.lines)
      ∧ (v.getLsbD 0 ≠ s.oe → ∀ l : Fin 16, t.lines[l] = { w.lines[l] with
          pinActive := w.lines[l].hold && v.getLsbD 0 && !w.lines[l].cut })
      ∧ (v.getLsbD 1 = s.port.enabled → t.port = s.port)
      ∧ (v.getLsbD 1 = false → s.port.enabled = true → t.port = { w.port with
          enabled := false, reception := .disabled, shiftReg := 0, bitCount := 0 })
      ∧ (v.getLsbD 1 = true → s.port.enabled = false → t.port = { w.port with
          enabled := true, reception := if s.sfrm then .waitLow else .idle })

/-- R73, R74: POP of an empty queue completes with QUEUE_EMPTY, else it removes the head; FLUSH removes every record and
every loss mark. And of R77: a WATERMARK write stores 1 for 0 and 64 for more, and makes the EVENTS request when the stored
value is not above the count; what that cycle has on D7 to D0 is left to other statements (log 4). POP and FLUSH complete
with the queue's own event (log 15). -/
def Obligations.PopFlushAndWatermark : Prop :=
  (∀ s : State, Waits .pop s → s.queue.records = [] → exec .pop s = .next (completed .queueEmpty s))
    ∧ (∀ (s : State) (r : Record) (rest : List Record), Waits .pop s → s.queue.records = r :: rest →
    exec .pop s = .next (completed .ok { s with queue := { s.queue with records := rest } }))
    ∧ (∀ s : State, Waits .flush s →
      ∃ t : State, exec .flush s = .next t
        ∧ t = completed .ok { s with queue := { s.queue with records := [], marks := t.queue.marks } }
        ∧ ∀ k : RecordKind, t.queue.marks.get k = false)
    ∧ ∀ (s : State) (v : Byte), s.inReset = false →
      ∃ w : Byte, w.toNat = max 1 (min 64 v.toNat)
        ∧ ∃ t : State, exec (.watermarkWrite v) s = .next t
          ∧ t = { s with
              queue := { s.queue with watermark := w }
              intr := if w.toNat ≤ s.queue.records.length then { s.intr with flags := s.intr.flags ||| 0x01 }
                else s.intr
              dataOut := t.dataOut }

/-! # The event queue takes a submission -/

/-- R65 to R69, R77 to R79, Table 4-4: the queue takes the oldest submission of a submitter: with room it is admitted at
the tail; a full queue evicts the newest record of lower severity other than the head; else it is dropped; and which loss
mark each kind of record reads, sets and clears. A submission waits while one that reached the queue before it waits; but
the engine's own records of a work item, and a CONFLICT that its contribution change raised, may fall behind the records
that other submitters hand over within the same work item. How submissions wait is read from R65 and R97 (log 8); that the
row of a submitter whose oldest submission has to wait leaves the state as it is is the model's choice (log 2). -/
def Obligations.SubmissionIsAdmittedEvictsOrIsDropped : Prop :=
  (∀ (s : State) (w : Waiting) (pre post : List Waiting), s.waiting = pre ++ w :: post →
    (∀ v ∈ pre, v.submitter ≠ w.submitter) →
    ((∃ v ∈ pre, v.item ≠ w.item ∨ v.loose = false) → exec (.recordSubmission w.submitter) s = .next s)
      ∧ ((∀ v ∈ pre, v.item = w.item ∧ v.loose = true) →
        (s.queue.records.length < 64 →
            exec (.recordSubmission w.submitter) s = .next { s with
              waiting := pre ++ post
              queue := { s.queue with
                records := s.queue.records ++ [{
                  body := w.body, seq := s.queue.nextSeq,
                  timestamp := s.timebase.timestamp, lossBefore := s.queue.marks.get w.body.kind }]
                nextSeq := s.queue.nextSeq + 1
                marks := s.queue.marks.put w.body.kind false }
              intr := { s.intr with flags := s.intr.flags
                ||| (if s.queue.records.length + 1 = s.queue.watermark.toNat then 0x01 else 0)
                ||| (if w.body.severity = 3 then 0x02 else 0) } })
          ∧ (∀ (head victim : Record) (a b : List Record), s.queue.records = head :: (a ++ victim :: b) →
              s.queue.records.length = 64 → victim.body.severity < w.body.severity →
              (∀ r ∈ b, ¬ r.body.severity < w.body.severity) →
              exec (.recordSubmission w.submitter) s = .next { s with
                waiting := pre ++ post
                queue := { s.queue with
                  records := head :: (a ++ b) ++ [{
                    body := w.body, seq := s.queue.nextSeq,
                    timestamp := s.timebase.timestamp,
                    lossBefore := (s.queue.marks.put victim.body.kind true).get w.body.kind }]
                  nextSeq := s.queue.nextSeq + 1
                  marks := (s.queue.marks.put victim.body.kind true).put w.body.kind false }
                intr := { s.intr with flags := s.intr.flags ||| 0x04
                  ||| (if w.body.severity = 3 then 0x02 else 0) } })
          ∧ (∀ (head : Record) (tail : List Record), s.queue.records = head :: tail →
              s.queue.records.length = 64 → (∀ r ∈ tail, ¬ r.body.severity < w.body.severity) →
              exec (.recordSubmission w.submitter) s = .next { s with
                waiting := pre ++ post
                queue := { s.queue with marks := s.queue.marks.put w.body.kind true }
                intr := { s.intr with flags := s.intr.flags ||| 0x04 } })))
    ∧ ∀ (m : LossMarks) (b : Bool),
      (∀ n : Fin 32, ∀ k ∈ [RecordKind.trip n, .clear n],
          m.get k = m.entry[n] ∧ m.put k b = { m with entry := m.entry.set n b })
        ∧ (∀ c : Fin 16, ∀ k ∈ [RecordKind.stale c, .invalid c, .fresh c],
          m.get k = m.channel[c] ∧ m.put k b = { m with channel := m.channel.set c b })
        ∧ (∀ l : Fin 16, m.get (.conflict l) = m.line[l] ∧ m.put (.conflict l) b = { m with line := m.line.set l b })
        ∧ ∀ k ∈ [RecordKind.cutoff, .restart], m.get k = m.device ∧ m.put k b = { m with device := b }

/-! # Capture unit, channel unit -/

/-- R110, R112, R113 and Table 6-1: a capture step acts on its accumulator as it stands, SET and ADD whatever the edge
value, EXCESS and COPY only when it is present; the capture unit takes steps and commands in the order in which they
reach it, so a step waits behind a command and a command behind a step. That they wait in one list is read from R110, and
that an event whose turn it is not leaves the state as it is is the model's choice (logs 9 and 2). -/
def Obligations.CaptureStepAppliesItsAction : Prop :=
  (∀ (s : State) (st : CaptureStep) (rest : List CaptureEvent), s.captures = .step st :: rest →
    (∃ x : Word,
      exec .captureStep s = .next { s with captures := rest, accs := s.accs.set st.acc x }
        ∧ match st.action, st.value with
          | .set, _ => x.toInt = st.const.toInt
          | .add, _ => x.toInt = max (-2147483648) (min 2147483647 (s.accs[st.acc].toInt + st.const.toInt))
          | .excess, some v => x.toInt = v.toInt - st.limit.toInt + st.const.toInt
          | .copy, some v => x.toInt = v.toInt
          | .excess, none => x = s.accs[st.acc]
          | .copy, none => x = s.accs[st.acc])
      ∧ exec .readAcc s = .next s ∧ exec .writeAcc s = .next s)
    ∧ ∀ (s : State) (rest : List CaptureEvent), s.captures = .command :: rest → exec .captureStep s = .next s

/-- R34, R120 to R122, R148, R153: an arrival from the sample port and one made by an INJ_TAG write: accepted or refused by
the channel's state and source, placed in the slot, counted, the outcome handed back to the port or shown in INJ_RESULT;
a command that waits for the channel is taken before it, and a free engine takes the item at once, as
`EngineTakesClaimsInServiceOrder` says. Deliveries and outcomes wait oldest first (log 10), commands are handed over at
the CMD_OP write (log 12), and dataOut is the model's own field (log 4). -/
def Obligations.ArrivalsAreAcceptedOrRefused : Prop :=
  (∀ (s u : State) (a : PortArrival) (rest : List PortArrival), s.port.delivered = a :: rest →
    u = channelTaken a.channel s →
    exec .arrival s = .next (chooseWork { u with
      channels := u.channels.set a.channel (arrived true a.raw a.status u.channels[a.channel])
      port := { s.port with
        delivered := rest, outcomes := s.port.outcomes ++ [outcomeOf true u.channels[a.channel]] } }))
    ∧ ∀ (s u : State) (v : Byte) (c : Fin 16) (status : SampleStatus), s.inReset = false → c.val = v.toNat % 16 →
      sampleStatusCode status = v.toNat / 16 % 4 → u = channelTaken c s →
      exec (.injTagWrite v) s = .next (chooseWork { u with
        channels := u.channels.set c (arrived false s.inj.value status u.channels[c])
        inj := { s.inj with tag := v.setWidth 6, result := outcomeOf false u.channels[c] }
        dataOut := none })

/-- R34, R120, R131 to R134: the tick that brings a freshness timer to zero is the freshness expiry: it takes a WAITING or
LIVE channel to STALE with its STALE record, which is handed over at once; on a STALE channel it places the fault item
again, without a record; a command that waits for the channel is taken before it, and a free engine takes the fault item
at once. That a tick waits for the channel unit until it takes it is read from R159 (log 7), that records wait in the order
in which they reach the queue from R65 (log 8), when a waiting command is taken from R120 (log 12). -/
def Obligations.FreshnessExpiryMakesTheChannelStale : Prop :=
  ∀ (s u : State) (c : Fin 16) (k : Nat), s.due.channels[c] = k + 1 → s.channels[c].fresh = .running 1 →
    u = channelTaken c s →
    (s.channels[c].state = .waiting ∨ s.channels[c].state = .live →
        exec (.freshnessExpiry c) s = .next (chooseWork { u with
          channels := u.channels.set c { u.channels[c] with
            state := .stale, ring := [], slot := some .fault, fresh := .unloaded }
          due := { s.due with channels := s.due.channels.set c k }
          waiting := s.waiting ++ channelRecordIf u.channels[c].cfg.faultEvents s.workItem (.stale c)
            u.channels[c].cfg.faultSeverity none 0 }))
      ∧ (s.channels[c].state = .stale →
        exec (.freshnessExpiry c) s = .next (chooseWork { u with
          channels := u.channels.set c { u.channels[c] with slot := some .fault, fresh := .unloaded }
          due := { s.due with channels := s.due.channels.set c k } }))

/-! # Evaluations -/

/-- R34 to R36, R37 step 1, R120, R124: how the engine chooses. It takes a claim as soon as it is free: the expiry of the
lowest-indexed entry with a claim, the qualification expiry before the shaping expiry; otherwise the table command, if one
waits; otherwise the item of the lowest-numbered channel above the rotation pointer, else of the lowest-numbered from 0:
the slot becomes empty at once, and the pointer is set to the channel; a command that waits for that channel is taken
before. Where nothing waits it stays free, and a busy engine takes nothing. The end of a work item is such a moment (its
number, which moves on, is the model's own, log 8), and so is each event that raises a claim, as the statements of those
events say. A table command is not served unless the engine has taken it, nor an expiry, and EVALUATION does nothing where
no evaluation is in progress: that such a row leaves the state as it is is the model's choice (log 2). When a waiting
channel command is taken is read from R120 (log 12). -/
def Obligations.EngineTakesClaimsInServiceOrder : Prop :=
  (∀ s : State, comeFree s = chooseWork { s with engine := .free, workItem := s.workItem + 1 })
    ∧ (∀ s : State, s.engine ≠ .free → chooseWork s = s)
    ∧ (∀ (s : State) (n : Fin 32), s.engine = .free → (∀ m : Fin 32, m < n → NoClaim m s) →
      (s.entries[n].qual = .expired ∨ s.entries[n].qualVoid ≠ 0 →
        chooseWork s = { s with engine := .taken (.expiry n .qualification), workItem := s.workItem + 1 })
      ∧ (s.entries[n].qual ≠ .expired → s.entries[n].qualVoid = 0 →
        (s.entries[n].shape = .expired ∨ s.entries[n].shapeVoid ≠ 0) →
        chooseWork s = { s with engine := .taken (.expiry n .shaping), workItem := s.workItem + 1 }))
    ∧ (∀ s : State, s.engine = .free → (∀ n : Fin 32, NoClaim n s) →
      ((∃ d : Command, d.isTable = true ∧ Waits d s) →
          chooseWork s = { s with engine := .taken .table, workItem := s.workItem + 1 })
        ∧ ((∀ d : Command, d.isTable = true → ¬ Waits d s) →
          (∀ (u : State) (c : Fin 16) (item : Item), s.channels[c].slot = some item → u = channelTaken c s →
            ((s.pointer < c ∧ ∀ d : Fin 16, s.pointer < d → d < c → s.channels[d].slot = none)
              ∨ (c ≤ s.pointer ∧ (∀ d : Fin 16, s.pointer < d → s.channels[d].slot = none)
                  ∧ ∀ d : Fin 16, d < c → s.channels[d].slot = none)) →
            chooseWork s = { u with
              channels := u.channels.set c { u.channels[c] with slot := none }
              pointer := c
              engine := .settling c item
              workItem := s.workItem + 1 })
          ∧ ((∀ c : Fin 16, s.channels[c].slot = none) → chooseWork s = s)))
    ∧ (∀ s : State, inEvaluation s = false → ∀ x : Extent, exec (.evaluation x) s = .next s)
    ∧ (∀ s : State, s.engine ≠ .taken .table →
      ∀ c ∈ [Instr.readEntry, .writeEntry, .arm, .disarm, .release, .enable, .disable], exec c s = .next s)
    ∧ (∀ s : State, s.engine ≠ .taken .table → inReleaseAll s = false →
      ∀ x : Extent, exec (.releaseAll x) s = .next s)
    ∧ (∀ s : State, (∀ n : Fin 32, s.engine ≠ .taken (.expiry n .qualification)) → s.engine ≠ .ending →
      exec .qualificationExpiryTaken s = .next s)
    ∧ ∀ s : State, (∀ n : Fin 32, s.engine ≠ .taken (.expiry n .shaping)) → exec .shapingExpiryTaken s = .next s

/-- R120, R125, R126, R128, R129: a sample item settled as good enters the ring, the channel value is the truncated average,
the channel becomes LIVE and GOOD, and FRESH is handed over after STALE or INVALID; a command that waits for the channel
is taken before (log 12). The settling is one event of the evaluation (log 6), and a record carries the number of its
work item, the model's own (log 8). -/
def Obligations.GoodSampleSettlesIntoTheAverage : Prop :=
  ∀ (s u : State) (c : Fin 16) (raw x : Half) (status : SampleStatus), s.engine = .settling c (.sample raw status) →
    u = channelTaken c s →
    s.channels[c].state ≠ .off → u.channels[c].ring.length ≤ u.channels[c].cfg.avgLen.size →
    Enters u.channels[c].cfg raw status x →
    ∃ (ring : List Half) (value : Half),
      ring = (if u.channels[c].ring.length = u.channels[c].cfg.avgLen.size then u.channels[c].ring.tail
          else u.channels[c].ring) ++ [x]
        ∧ value.toInt = Int.tdiv (ring.map BitVec.toInt).sum ring.length
        ∧ exec (.evaluation .advance) s = .next { u with
            engine := .handling c (.good value) 0
            channels := u.channels.set c { u.channels[c] with
              lastRaw := raw, lastStatus := status, ring := ring, value := value, quality := .good, state := .live }
            waiting := s.waiting ++ channelRecordIf
              (u.channels[c].cfg.faultEvents
                && (s.channels[c].state == .stale || s.channels[c].quality == .invalid))
              s.workItem (.fresh c) u.channels[c].cfg.faultSeverity (some value) 0 }

/-- R120, R125, R127 to R130: a sample item settled as invalid keeps ring and value, makes the channel LIVE and INVALID and
hands over INVALID at the first; a fault item changes nothing in the channel; both give fault input; a command that waits
for the channel is taken before (log 12). The settling is one event of the evaluation (log 6), and a record carries the
number of its work item, the model's own (log 8). -/
def Obligations.InvalidSampleAndFaultItemGiveFaultInput : Prop :=
  (∀ (s u : State) (c : Fin 16) (raw x : Half) (status : SampleStatus), s.engine = .settling c (.sample raw status) →
    u = channelTaken c s →
    s.channels[c].state ≠ .off →
    (status = .fault ∨ status ≠ .good ∧ u.channels[c].cfg.overrangeAsLimit = false) →
    CorrectedValue u.channels[c].cfg raw x →
    exec (.evaluation .advance) s = .next { u with
      engine := .handling c .fault 0
      channels := u.channels.set c { u.channels[c] with
        lastRaw := raw, lastStatus := status, quality := .invalid, state := .live }
      waiting := s.waiting ++ channelRecordIf
        (u.channels[c].cfg.faultEvents && (s.channels[c].state == .stale || s.channels[c].quality == .good))
        s.workItem (.invalid c) u.channels[c].cfg.faultSeverity (some x) (sampleStatusCode status) })
    ∧ ∀ (s : State) (c : Fin 16), s.engine = .settling c .fault →
      exec (.evaluation .advance) s = .next { channelTaken c s with engine := .handling c .fault 0 }

/-- R18 to R22, R28, R37, R42, R45 to R52, R84: the next bound entry is handled whole for a good value: effective limit, last
value and condition, then the transition with its timer and edge, whose contribution step comes behind the line command
that waits with the output unit (log 12); then the engine goes on. A cancelled timer leaves a void claim behind exactly
when it had expired. The handling of one entry is one event of the evaluation (log 6); the count of void claims and the
number of the work item are the model's own (logs 11 and 8). -/
def Obligations.GoodValueMovesTheEntry : Prop :=
  ∀ (s : State) (c : Fin 16) (v : Half) (k : Nat) (n : Fin 32), OutputLaw s → HandlesNext c (.good v) k n s →
    ∃ t u : State, exec (.evaluation .advance) s = .next { t with engine := .handling c (.good v) (n.val + 1) }
      ∧ u = reached n (moved s.entries[n] t.entries[n].condition).2.1 s
      ∧ HandlingFrame n u t
      ∧ LimitOf n s t.entries[n].effLimit
      ∧ t.entries[n].lastValue = some v
      ∧ t.entries[n].condition = newCondition s.entries[n].cfg s.entries[n].condition
          t.entries[n].effLimit.toInt v.toInt
      ∧ Moves n t.entries[n].condition (some v) u t

/-- R29 to R33, R42, R84: the next bound entry is handled whole for fault input: effective limit and absent last value, then
nothing under HOLD or in INHIBITED, an active condition under TRIP, an inactive one under CLEAR, with no edge value, and
an edge's contribution step comes behind the line command that waits with the output unit (log 12); a
cancelled timer leaves a void claim behind exactly when it had expired. The handling of one entry is one event of the
evaluation (log 6); the count of void claims and the number of the work item are the model's own (logs 11 and 8). -/
def Obligations.FaultInputFollowsThePolicy : Prop :=
  ∀ (s : State) (c : Fin 16) (k : Nat) (n : Fin 32), OutputLaw s → HandlesNext c .fault k n s →
    ∃ t : State, exec (.evaluation .advance) s = .next { t with engine := .handling c .fault (n.val + 1) }
      ∧ LimitOf n s t.entries[n].effLimit
      ∧ t.entries[n].lastValue = none
      ∧ (s.entries[n].state = .inhibited ∨ s.entries[n].cfg.faultPolicy = .hold →
          HandlingFrame n s t
            ∧ t.entries[n].condition = s.entries[n].condition ∧ t.entries[n].state = s.entries[n].state
            ∧ t.entries[n].qual = s.entries[n].qual ∧ t.entries[n].qualVoid = s.entries[n].qualVoid ∧ NoEdge n s t)
      ∧ (∀ u : State, s.entries[n].state ≠ .inhibited → s.entries[n].cfg.faultPolicy = .trip →
          u = reached n (moved s.entries[n] true).2.1 s →
          HandlingFrame n u t ∧ t.entries[n].condition = true ∧ Moves n true none u t)
      ∧ (∀ u : State, s.entries[n].state ≠ .inhibited → s.entries[n].cfg.faultPolicy = .clear →
          u = reached n (moved s.entries[n] false).2.1 s →
          HandlingFrame n u t ∧ t.entries[n].condition = false ∧ Moves n false none u t)

/-- R37, R18: an evaluation taken to its end handles the bound entries that are left, each once, in index order, and the
engine comes free; the set of bound entries is fixed from the beginning. Event by event: the end comes when no bound
entry is left, and the end of an evaluation that is still to settle is that of the one that has settled. The division of
an evaluation into events is read from R38 (log 6). -/
def Obligations.EvaluationHandlesEachBoundEntryInOrder : Prop :=
  (∀ (s : State) (c : Fin 16) (input : EvalInput) (k : Nat), s.engine = .handling c input k →
    exec (.evaluation .finish) s = .next (comeFree
        (((List.finRange 32).filter fun n => k ≤ n.val && isBound c n s).foldl (fun u n => handleEntry n input u) s))
      ∧ ((∀ n : Fin 32, k ≤ n.val → ¬ Bound c n s) → exec (.evaluation .advance) s = .next (comeFree s)))
    ∧ ∀ (s : State) (c : Fin 16) (item : Item), s.engine = .settling c item →
      ∃ (t : State) (input : EvalInput), exec (.evaluation .advance) s = .next t ∧ t.engine = .handling c input 0
        ∧ exec (.evaluation .finish) s = exec (.evaluation .finish) t

/-! # Expiries and ticks -/

/-- R42, R43, R52, R84: the engine serves the qualification expiry it has taken: a void claim does nothing; a live one takes
PENDING_TRIP to TRIPPED, PENDING_CLEAR to NORMAL, with an edge that carries FROM_TIMER and the last value, behind the line
command that waits with the output unit (log 12); then the engine comes free. Where the edge has handed over a CONFLICT
and a record of its own, that is an event of its own, since another submitter's record may fall between the two (R65, R97,
logs 6 and 8). The count of void claims and the number of the work item are the model's own (logs 11 and 8). -/
def Obligations.QualificationExpiryMovesTheEntryOn : Prop :=
  (∀ (s : State) (n : Fin 32), s.engine = .taken (.expiry n .qualification) →
    (∀ k : Nat, s.entries[n].qualVoid = k + 1 →
        exec .qualificationExpiryTaken s = .next (comeFree { s with
          entries := s.entries.set n { s.entries[n] with qualVoid := k } }))
      ∧ ∀ (u : State) (dir : Direction), OutputLaw s → s.entries[n].qualVoid = 0 → s.entries[n].qual = .expired →
        (s.entries[n].state = .pendingTrip ∧ dir = .trip ∨ s.entries[n].state = .pendingClear ∧ dir = .clear) →
        u = reached n (some dir) s →
        ∃ t : State,
          (exec .qualificationExpiryTaken s =
            if conflictsOf true s.entries[n].cfg.output u t ≠ []
                ∧ recordsOf n s.entries[n].cfg dir s.entries[n].lastValue true false s.workItem ≠ [] then
              .next { t with engine := .ending }
            else .next (comeFree t))
          ∧ t = { u with entries := t.entries, lines := t.lines, captures := t.captures, waiting := t.waiting }
          ∧ OthersKept n s t
          ∧ t.entries[n] = { s.entries[n] with
              state := if dir = .trip then .tripped else .normal
              qual := .unloaded
              tripCount := t.entries[n].tripCount
              shape := t.entries[n].shape
              shapeVoid := t.entries[n].shapeVoid
              phase := t.entries[n].phase }
          ∧ EdgeEffects n dir s.entries[n].lastValue true false u t)
    ∧ ∀ s : State, s.engine = .ending → exec .qualificationExpiryTaken s = .next (comeFree s)

/-- R42, R44, R84, R87, R89, R91 to R96: the engine serves the shaping expiry it has taken: a void claim does nothing; a live
one ends a pulse, or toggles a blink phase and reloads the timer, and demand, want, hold, blocked and pin of the line
follow, behind the line command that waits with the output unit (log 12); then the engine comes free. The count of void
claims and the number of the work item are the model's own (logs 11 and 8). -/
def Obligations.ShapingExpiryEndsAPulseOrTogglesABlink : Prop :=
  ∀ (s u : State) (n : Fin 32) (l : Fin 16), s.engine = .taken (.expiry n .shaping) → u = lineTaken s →
    (∀ k : Nat, s.entries[n].shapeVoid = k + 1 →
        exec .shapingExpiryTaken s = .next (comeFree { s with
          entries := s.entries.set n { s.entries[n] with shapeVoid := k } }))
      ∧ (OutputLaw s → s.entries[n].shapeVoid = 0 → s.entries[n].shape = .expired → s.entries[n].cfg.output = some l →
        (s.entries[n].cfg.shaping = .pulse →
          ∃ t : State, exec .shapingExpiryTaken s = .next (comeFree t)
            ∧ t = { u with entries := s.entries.set n { s.entries[n] with shape := .unloaded }, lines := t.lines }
            ∧ LineFollows l (contributing n false u.lines[l]) u t)
        ∧ (s.entries[n].cfg.shaping = .blink →
          ∃ t : State, exec .shapingExpiryTaken s = .next (comeFree t)
            ∧ t = { u with
                entries := s.entries.set n { s.entries[n] with
                  shape := .running s.entries[n].cfg.shapeTicks, phase := !s.entries[n].phase }
                lines := t.lines
                waiting := u.waiting ++ conflictsOf true (some l) u t }
            ∧ LineFollows l (contributing n (!s.entries[n].phase) u.lines[l]) u t))

/-- R34, R41, R120, R131, R132, R156, R158, R159: at the end of an interval the next begins with TBDIV as it stands and a
tick is made for each of the three owners; TIMESTAMP advances by one; the timer bank takes its tick as one event over its
64 timers, and a timer it brings to zero is expired, its claim raised at once; the channel unit takes its tick for the
freshness timers, and one it brings to zero is the freshness expiry, before which a command that waits for the channel is
taken (log 12); a free engine takes a claim at once. The owners take a tick in any order, with the same outcome; only
where the engine is free, and the tick brings timers of both to zero, is it the order that says which claim it takes
(R34) and which work item number the STALE records bear (log 8). The row TICK is the whole tick or one event of it (log
17), and the expiry rows of the timer bank are its taking of the tick; the claims that one tick of the timer bank raises go
in service order (R35, R159). The model's choices are that in the whole tick of one row the timer bank comes before the
channel unit, that the channel unit takes the channels of one tick from 0 upward (both log 7), and that of the channel
items one command raises together a free engine takes the first in rotation (log 20). -/
def Obligations.TickCountsDownAndExpiryRaisesTheClaim : Prop :=
  (∀ s : State, s.inReset = false →
    ∃ due : Vector Nat 16, (∀ c : Fin 16, due[c] = s.due.channels[c] + 1)
      ∧ exec (.tickBy .interval) s = .next { s with
          timebase := { s.timebase with dividerInUse := s.timebase.tbdiv, prescale := 0 }
          due := { timestamp := s.due.timestamp + 1, timerBank := s.due.timerBank + 1, channels := due } })
    ∧ (∀ (s : State) (k : Nat), s.due.timestamp = k + 1 →
      exec (.tickBy .timestamp) s = .next { s with
        timebase := { s.timebase with timestamp := s.timebase.timestamp + 1 }, due := { s.due with timestamp := k } })
    ∧ (∀ (s : State) (k : Nat), s.due.timerBank = k + 1 →
      (∀ n : Fin 32, s.entries[n].qual ≠ .running 0 ∧ s.entries[n].shape ≠ .running 0) →
      ∃ t u : State, exec (.tickBy .timerBank) s = .next u
        ∧ u = chooseWork t
        ∧ t = { s with entries := t.entries, due := { s.due with timerBank := k } }
        ∧ (∀ n : Fin 32, t.entries[n] =
            { s.entries[n] with qual := ticked s.entries[n].qual, shape := ticked s.entries[n].shape })
        ∧ ∀ n : Fin 32,
          (s.entries[n].qual = .running 1 → exec (.qualificationTimerExpiry n) s = .next u)
            ∧ (s.entries[n].shape = .running 1 → exec (.shapingTimerExpiry n) s = .next u))
    ∧ (∀ s u : State, (∀ c : Fin 16, s.channels[c].fresh ≠ .running 0) →
      (∀ c : Fin 16, Index c s → u =
        if s.due.channels[c] ≠ 0 ∧ s.channels[c].fresh = .running 1 then channelTaken c s else s) →
      (16 ≤ s.cmd.captured0.toNat → u = s) →
      ∃ t : State, exec (.tickBy .channelUnit) s = .next (chooseWork t)
        ∧ t = { u with
            channels := t.channels, due := { s.due with channels := t.due.channels }
            waiting := s.waiting ++ (List.finRange 16).flatMap (fun c =>
              channelRecordIf
                (s.due.channels[c] != 0 && s.channels[c].fresh == .running 1 && u.channels[c].cfg.faultEvents
                  && (s.channels[c].state == .waiting || s.channels[c].state == .live))
                s.workItem (.stale c) u.channels[c].cfg.faultSeverity none 0) }
        ∧ ∀ c : Fin 16, t.due.channels[c] = s.due.channels[c] - 1
          ∧ (s.due.channels[c] = 0 ∨ s.channels[c].fresh = .unloaded → t.channels[c] = s.channels[c])
          ∧ (s.due.channels[c] ≠ 0 → ∀ k : Half, s.channels[c].fresh = .running k → k ≠ 1 →
              t.channels[c] = { s.channels[c] with fresh := .running (k - 1) })
          ∧ (s.due.channels[c] ≠ 0 → s.channels[c].fresh = .running 1 →
              (s.channels[c].state = .waiting ∨ s.channels[c].state = .live → t.channels[c] = { u.channels[c] with
                  state := .stale, ring := [], slot := some .fault, fresh := .unloaded })
                ∧ (s.channels[c].state = .stale → t.channels[c] = { u.channels[c] with
                    slot := some .fault, fresh := .unloaded })))
    ∧ ∀ s : State,
      ∀ xs ∈ [[TickExtent.timestamp, .timerBank, .channelUnit], [.timestamp, .channelUnit, .timerBank],
          [.timerBank, .timestamp, .channelUnit], [.timerBank, .channelUnit, .timestamp],
          [.channelUnit, .timestamp, .timerBank], [.channelUnit, .timerBank, .timestamp]],
        (s.engine ≠ .free
            ∨ (EngineLaw s ∧ ((∀ n : Fin 32, s.entries[n].qual.expiring = false ∧ s.entries[n].shape.expiring = false)
              ∨ ∀ c : Fin 16, s.channels[c].fresh.expiring = false)) →
          runAll ((TickExtent.interval :: xs).map fun x => .tickBy x) s = runAll [.tick] s)
          ∧ (EngineLaw s → (runAll ((TickExtent.interval :: xs).map fun x => .tickBy x) s).map unchosen =
              (runAll [.tick] s).map unchosen)

/-! # Sample port and injection -/

/-- R145, and of R144 the rises of SFRM in IDLE and DISABLED: a rise of SFRM in IDLE and 24 rising edges of SCLK with the
bits of a frame, first bit first, leave the frame in the shift register and the count at 24; a further edge makes the
count 25; outside RECEIVING an edge is ignored, and in DISABLED a rise of SFRM too. That they come behind a
CLEAR_PORT_COUNTS that waits with the port is said in `OutcomesAreCountedAndCountsCleared`. -/
def Obligations.TwentyFourEdgesShiftTheFrameIn : Prop :=
  ∀ s : State, s.inReset = false → ¬ Waits .clearPortCounts s →
    (∀ f : BitVec 24, s.sfrm = false → s.port.reception = .idle →
      runAll (.frameStart :: (List.range 24).map fun i => .sclkRisingEdge (f.getLsbD (23 - i))) s =
        some { s with sfrm := true, port := { s.port with reception := .receiving, shiftReg := f, bitCount := 24 } })
      ∧ (s.sfrm = false → s.port.reception = .idle → exec .frameStart s = .next { s with
          sfrm := true, port := { s.port with reception := .receiving, shiftReg := 0, bitCount := 0 } })
      ∧ (∀ b : Bool, s.port.reception = .receiving → s.port.bitCount < 24 →
        ∃ r : BitVec 24, r.toNat = (2 * s.port.shiftReg.toNat + b.toNat) % 2 ^ 24
          ∧ exec (.sclkRisingEdge b) s =
            .next { s with port := { s.port with shiftReg := r, bitCount := s.port.bitCount + 1 } })
      ∧ (∀ b : Bool, s.port.reception = .receiving → 24 ≤ s.port.bitCount →
        exec (.sclkRisingEdge b) s = .next { s with port := { s.port with bitCount := 25 } })
      ∧ (∀ b : Bool, s.port.reception ≠ .receiving → exec (.sclkRisingEdge b) s = .next s)
      ∧ (s.sfrm = false → s.port.reception = .disabled → exec .frameStart s = .next { s with sfrm := true })

/-- R144, R146, R147, R149, Table 8-2: a fall of SFRM ends a frame: a wrong length is counted in LENGTH, else a 0 marker in
MARKER and an odd number of 1 bits in PARITY; an error makes the PORT request; a good frame is delivered. A
CLEAR_PORT_COUNTS that waits with the port is taken before (log 12). -/
def Obligations.FrameEndChecksAndDelivers : Prop :=
  ∀ s u : State, s.inReset = false → s.sfrm = true → u = portTaken s →
    (s.port.reception = .receiving → s.port.bitCount ≠ 24 →
        exec .frameEnd s = .next { u with
          sfrm := false
          port := { u.port with reception := .idle, length := BitVec.ofNat 8 (min 255 (u.port.length.toNat + 1)) }
          intr := { u.intr with flags := u.intr.flags ||| 0x10 } })
      ∧ (s.port.reception = .receiving → s.port.bitCount = 24 →
        ∀ odd : Bool, odd = ((List.finRange 24).countP (fun i => s.port.shiftReg.getLsbD i.val) % 2 == 1) →
        (s.port.shiftReg.getLsbD 23 = false ∨ odd = true →
          exec .frameEnd s = .next { u with
            sfrm := false
            port := { u.port with
              reception := .idle
              marker := if s.port.shiftReg.getLsbD 23 then u.port.marker
                else BitVec.ofNat 8 (min 255 (u.port.marker.toNat + 1))
              parity := if odd then BitVec.ofNat 8 (min 255 (u.port.parity.toNat + 1)) else u.port.parity }
            intr := { u.intr with flags := u.intr.flags ||| 0x10 } })
          ∧ (s.port.shiftReg.getLsbD 23 = true → odd = false →
            ∃ a : PortArrival, a.channel.val = s.port.shiftReg.toNat / 2 ^ 19 % 16
              ∧ sampleStatusCode a.status = s.port.shiftReg.toNat / 2 ^ 17 % 4
              ∧ a.raw.toNat = s.port.shiftReg.toNat / 2 % 2 ^ 16
              ∧ exec .frameEnd s = .next { u with
                  sfrm := false
                  port := { u.port with reception := .idle, delivered := s.port.delivered ++ [a] } }))
      ∧ (s.port.reception = .waitLow →
        exec .frameEnd s = .next { u with sfrm := false, port := { u.port with reception := .idle } })
      ∧ (s.port.reception = .disabled → exec .frameEnd s = .next { u with sfrm := false })

/-- R144, R148 to R150: an accepted outcome changes no counter, a refusal is counted in UNROUTED and makes the PORT request,
behind the CLEAR_PORT_COUNTS that waits with the port (log 12), and so are a rise of SFRM and an edge of SCLK taken;
CLEAR_PORT_COUNTS sets the four counters to 0. That outcomes wait oldest first is read from the rules (log 10). -/
def Obligations.OutcomesAreCountedAndCountsCleared : Prop :=
  (∀ (s u : State) (o : ArrivalOutcome) (rest : List ArrivalOutcome), s.port.outcomes = o :: rest → u = portTaken s →
    (o = .accepted → exec .arrivalOutcome s = .next { u with port := { u.port with outcomes := rest } })
      ∧ (o ≠ .accepted → exec .arrivalOutcome s = .next { u with
          port := { u.port with
            outcomes := rest, unrouted := BitVec.ofNat 8 (min 255 (u.port.unrouted.toNat + 1)) }
          intr := { u.intr with flags := u.intr.flags ||| 0x10 } }))
    ∧ ∀ s u : State, Waits .clearPortCounts s →
      u = completed .ok { s with port := { s.port with marker := 0, parity := 0, length := 0, unrouted := 0 } } →
      exec .clearPortCounts s = .next u
        ∧ (s.inReset = false →
          (s.sfrm = false → exec .frameStart s = exec .frameStart u)
            ∧ ∀ b : Bool, exec (.sclkRisingEdge b) s = exec (.sclkRisingEdge b) u)

/-! # The window -/

/-- R162, R163, R165, R166, R152, R157, R171: what each plain write stores: the assembly latches and their commits, CMD_ARG0
and CMD_ARG1, a staging byte (while a command is PENDING that command sees the old or the new value, R6); a write of a
read-only or unassigned address changes nothing; every write cycle, also one with both strobes low, is the REGISTER_WRITE
of its address, and no write cycle drives D7 to D0. A staging write while PENDING draws a free value (log 5), a
REGISTER_WRITE of an address with its own row is that row (log 13), and dataOut is the model's own field (log 4). -/
def Obligations.WritesStoreWhatTheMapSays : Prop :=
  (∀ (s : State) (v : Byte), s.inReset = false →
    exec (.injValueLowWrite v) s = .next { s with inj := { s.inj with latch := v }, dataOut := none }
      ∧ exec (.injValueHighWrite v) s =
          .next { s with inj := { s.inj with value := v ++ s.inj.latch }, dataOut := none }
      ∧ exec (.tbdivLowWrite v) s =
          .next { s with timebase := { s.timebase with tbdivLatch := v }, dataOut := none }
      ∧ exec (.tbdivHighWrite v) s =
          .next { s with timebase := { s.timebase with tbdiv := v ++ s.timebase.tbdivLatch }, dataOut := none }
      ∧ exec (.registerWrite 0x08 v) s = .next { s with cmd := { s.cmd with arg0 := v }, dataOut := none }
      ∧ exec (.registerWrite 0x09 v) s = .next { s with cmd := { s.cmd with arg1 := v }, dataOut := none }
      ∧ (∀ k : Fin 32, s.cmd.state ≠ .pending →
          exec (.registerWrite (BitVec.ofNat 7 (0x40 + k.val)) v) s =
            .next { s with staging := s.staging.set k v, dataOut := none })
      ∧ (∀ k : Fin 32, s.cmd.state = .pending →
          ∃ seen : Vector Byte 32, (seen = s.cmd.seen ∨ seen = s.cmd.seen.set k v)
            ∧ exec (.registerWrite (BitVec.ofNat 7 (0x40 + k.val)) v) s =
              .next { s with
                staging := s.staging.set k v, cmd := { s.cmd with seen := seen }, freeCount := s.freeCount + 1
                dataOut := none })
      ∧ ∀ a : Address, a.toNat ∈ [0x00, 0x01, 0x02, 0x04, 0x0A, 0x0B, 0x0F] ∨ (0x10 ≤ a.toNat ∧ a.toNat < 0x18)
            ∨ (0x1B ≤ a.toNat ∧ a.toNat < 0x40) ∨ 0x60 ≤ a.toNat →
          exec (.registerWrite a v) s = .next { s with dataOut := none })
    ∧ (∀ (s : State) (a : Address) (v : Byte), exec (writeRow a v s) s = exec (.registerWrite a v) s)
    ∧ ∀ (s : State) (rd : Bool) (a : Address) (v : Byte),
      exec (.registerWrite a v) s = .next (busEvent true rd true a v s)
        ∧ busRow true rd true a v s = some (writeRow a v s)
        ∧ dataPins true rd true (busEvent true rd true a v s) = none

/-- R72, R158, R164, R64, R162, R163, R166, R178, R179, R181: a read of head byte 0, of 0x10 or of a bitmap's lowest address
loads that field's latch from the field as it stands and returns its lowest byte, and the other latches stay; a read of a
higher byte returns the latch; a read of any other location loads nothing and returns the register or staging byte as it
stands, an unassigned address 0; a counter of the port is read behind the CLEAR_PORT_COUNTS that waits there (R144, log
12). A read is one event, at its beginning; D7 to D0 drive what it returns while CS# and RD#
are low and WR# is high, and nothing else makes a read or drives them. dataOut and the functions of the strobes are the
model's own (log 4). -/
def Obligations.LatchesLoadFromTheLiveField : Prop :=
  ∀ s : State, s.inReset = false →
    ((∃ h : Vector Byte 12,
      exec .headLatchLoad s = .next { s with queue := { s.queue with headLatch := h }, dataOut := some h[0] }
        ∧ (s.queue.records = [] → h = Vector.replicate 12 0)
        ∧ ∀ (r : Record) (rest : List Record), s.queue.records = r :: rest →
            h[1] ++ h[0] = r.seq ∧ h[5] ++ h[4] ++ h[3] ++ h[2] = r.timestamp
              ∧ h[6].toNat = recordKindCode r.body.kind + 16 * r.body.severity.toNat
              ∧ h[7].toNat = r.lossBefore.toNat + 2 * r.body.byRelease.toNat + 4 * r.body.valuePresent.toNat
                  + 8 * r.body.fromTimer.toNat
              ∧ h[8].toNat = recordSubject r.body.kind ∧ h[10] ++ h[9] = r.body.value
              ∧ h[11].toNat = r.body.aux.toNat)
      ∧ exec .timestampLatchLoad s = .next { s with
          timebase := { s.timebase with readLatch := s.timebase.timestamp }
          dataOut := some (s.timebase.timestamp.setWidth 8) }
      ∧ ∀ b : Bitmap, ∃ t : State, exec (.bitmapLatchLoad b) s = .next t
          ∧ t = { s with latches := t.latches, dataOut := t.dataOut }
          ∧ match b with
            | .pin => t.latches = { s.latches with pin := t.latches.pin }
                ∧ t.dataOut = some (t.latches.pin.setWidth 8)
                ∧ ∀ l : Fin 16, t.latches.pin.getLsbD l.val = s.lines[l].pinActive
            | .hold => t.latches = { s.latches with hold := t.latches.hold }
                ∧ t.dataOut = some (t.latches.hold.setWidth 8)
                ∧ ∀ l : Fin 16, t.latches.hold.getLsbD l.val = s.lines[l].hold
            | .demand => t.latches = { s.latches with demand := t.latches.demand }
                ∧ t.dataOut = some (t.latches.demand.setWidth 8)
                ∧ ∀ l : Fin 16, t.latches.demand.getLsbD l.val = s.lines[l].demand
            | .cut => t.latches = { s.latches with cut := t.latches.cut }
                ∧ t.dataOut = some (t.latches.cut.setWidth 8)
                ∧ ∀ l : Fin 16, t.latches.cut.getLsbD l.val = s.lines[l].cut
            | .tripped => t.latches = { s.latches with tripped := t.latches.tripped }
                ∧ t.dataOut = some (t.latches.tripped.setWidth 8)
                ∧ ∀ n : Fin 32, (t.latches.tripped.getLsbD n.val = true ↔ s.entries[n].state = .tripped
                    ∨ s.entries[n].state = .pendingClear ∨ s.entries[n].state = .held)
            | .armed => t.latches = { s.latches with armed := t.latches.armed }
                ∧ t.dataOut = some (t.latches.armed.setWidth 8)
                ∧ ∀ n : Fin 32, (t.latches.armed.getLsbD n.val = true ↔ s.entries[n].state ≠ .disarmed)
            | .channelState => t.latches = { s.latches with channelState := t.latches.channelState }
                ∧ t.dataOut = some (t.latches.channelState.setWidth 8)
                ∧ ∀ c : Fin 16, t.latches.channelState.toNat / 4 ^ c.val % 4 = channelStateCode s.channels[c].state)
      ∧ (readWindow s 0x00 = 0x4C ∧ readWindow s 0x01 = 0x32 ∧ readWindow s 0x02 = 0x01)
      ∧ ((readWindow s 0x03).getLsbD 0 = s.oe ∧ (readWindow s 0x03).getLsbD 1 = s.port.enabled
        ∧ (readWindow s 0x03).toNat < 4)
      ∧ ((readWindow s 0x04).getLsbD 0 = s.shutoff
        ∧ ((readWindow s 0x04).getLsbD 1 = true ↔ ∃ l : Fin 16, s.lines[l].cut = true)
        ∧ ((readWindow s 0x04).getLsbD 2 = true ↔ s.queue.records ≠ [])
        ∧ (readWindow s 0x04).toNat / 8 = (match s.cmd.state with | .idle => 0 | .pending => 1 | .done => 2))
      ∧ (readWindow s 0x05 = s.intr.flags.setWidth 8 ∧ readWindow s 0x06 = s.intr.mask.setWidth 8)
      ∧ (readWindow s 0x07 = s.cmd.op ∧ readWindow s 0x08 = s.cmd.arg0 ∧ readWindow s 0x09 = s.cmd.arg1
        ∧ (readWindow s 0x0A).toNat = resultCode s.cmd.result)
      ∧ ((s.queue.records.length ≤ 64 → (readWindow s 0x0B).toNat = s.queue.records.length)
        ∧ readWindow s 0x0C = s.queue.watermark)
      ∧ (readWindow s 0x0E ++ readWindow s 0x0D = s.timebase.tbdiv ∧ readWindow s 0x1A ++ readWindow s 0x19 = s.inj.value)
      ∧ (readWindow s 0x14 = s.port.marker ∧ readWindow s 0x15 = s.port.parity ∧ readWindow s 0x16 = s.port.length
        ∧ readWindow s 0x17 = s.port.unrouted)
      ∧ (readWindow s 0x18 = s.inj.tag.setWidth 8
        ∧ (readWindow s 0x1B).toNat = (match s.inj.result with | .accepted => 0 | .refusedSource => 1 | .refusedOff => 2))
      ∧ (∀ k : Fin 32, readWindow s (BitVec.ofNat 7 (0x40 + k.val)) = s.staging[k])
      ∧ (readWindow s 0x13 ++ readWindow s 0x12 ++ readWindow s 0x11 = s.timebase.readLatch.extractLsb' 8 24
        ∧ (∀ k : Fin 12, k.val ≠ 0 → readWindow s (BitVec.ofNat 7 (0x20 + k.val)) = s.queue.headLatch[k])
        ∧ readWindow s 0x61 = s.latches.pin.extractLsb' 8 8 ∧ readWindow s 0x63 = s.latches.hold.extractLsb' 8 8
        ∧ readWindow s 0x65 = s.latches.demand.extractLsb' 8 8 ∧ readWindow s 0x67 = s.latches.cut.extractLsb' 8 8
        ∧ readWindow s 0x6B ++ readWindow s 0x6A ++ readWindow s 0x69 = s.latches.tripped.extractLsb' 8 24
        ∧ readWindow s 0x6F ++ readWindow s 0x6E ++ readWindow s 0x6D = s.latches.armed.extractLsb' 8 24
        ∧ readWindow s 0x73 ++ readWindow s 0x72 ++ readWindow s 0x71 = s.latches.channelState.extractLsb' 8 24)
      ∧ (∀ a : Address, a.toNat = 0x0F ∨ (0x1C ≤ a.toNat ∧ a.toNat < 0x20) ∨ (0x2C ≤ a.toNat ∧ a.toNat < 0x40)
          ∨ 0x74 ≤ a.toNat → readWindow s a = 0)
      ∧ (∀ p ∈ [((0x10 : Address), Instr.timestampLatchLoad), (0x20, .headLatchLoad), (0x60, .bitmapLatchLoad .pin),
            (0x62, .bitmapLatchLoad .hold), (0x64, .bitmapLatchLoad .demand), (0x66, .bitmapLatchLoad .cut),
            (0x68, .bitmapLatchLoad .tripped), (0x6C, .bitmapLatchLoad .armed), (0x70, .bitmapLatchLoad .channelState)],
          ∀ v : Byte, busRow true true false p.1 v s = some p.2
            ∧ exec p.2 s = .next (busEvent true true false p.1 v s))
      ∧ (∀ (u : State) (a : Address) (v : Byte), (u = if 0x14 ≤ a.toNat ∧ a.toNat < 0x18 then portTaken s else s) →
          ((∀ x ∈ [(0x10 : Address), 0x20, 0x60, 0x62, 0x64, 0x66, 0x68, 0x6C, 0x70], a ≠ x) →
              busEvent true true false a v s = { u with dataOut := some (readWindow u a) })
            ∧ dataPins true true false (busEvent true true false a v s) = some (readWindow u a)
            ∧ ∀ rd wr : Bool,
              busEvent false rd wr a v s = s ∧ busRow false rd wr a v s = none ∧ dataPins false rd wr s = none
                ∧ busEvent true false false a v s = s ∧ dataPins true false false s = none)

/-! # Command unit, interrupt unit, resets -/

/-- R167 to R170, R34, R110: a CMD_OP write in IDLE or DONE is taken: the opcode, the captured arguments, PENDING; a table
command is taken by the engine at once when it is free, by its choice; a command of the capture unit
reaches it behind the events that wait there; the others wait with their owners, before whose next events they are taken,
as the statements of those events say (log 12); an unknown opcode completes at once with BAD_OPCODE; a CMD_OP write while
PENDING is lost and requests CMD_LOST. The three rows are one write (log 13), commands and capture steps wait in one list
(log 9), and cmd.seen, dataOut and the number of the work item are the model's own fields (logs 5, 4 and 8). -/
def Obligations.CmdOpIsTakenCompletedOrLost : Prop :=
  ∀ (s : State) (op : Byte), s.inReset = false →
    (∀ c : Command, s.cmd.state ≠ .pending → op = encodeOpcode c →
        ∃ t : State,
          t = { s with
            cmd := { s.cmd with
              op := op, captured0 := s.cmd.arg0, captured1 := s.cmd.arg1, state := .pending, seen := s.staging }
            dataOut := none }
          ∧ (c.isTable = true → exec (.commandTaken op) s = .next (chooseWork t))
          ∧ (c = .readAcc ∨ c = .writeAcc →
              exec (.commandTaken op) s = .next { t with captures := s.captures ++ [.command] })
          ∧ (c.isTable = false → c ≠ .readAcc → c ≠ .writeAcc → exec (.commandTaken op) s = .next t))
      ∧ (s.cmd.state ≠ .pending → (¬ ∃ c : Command, op = encodeOpcode c) →
        exec (.badOpcode op) s = .next (completed .badOpcode { s with
          cmd := { s.cmd with op := op, captured0 := s.cmd.arg0, captured1 := s.cmd.arg1, seen := s.staging }
          dataOut := none }))
      ∧ (s.cmd.state = .pending →
        exec (.cmdOpWriteLost op) s = .next { s with
          intr := { s.intr with flags := s.intr.flags ||| 0x40 }, dataOut := none })

/-- R174, R175: a write of INT_FLAGS clears each flag whose bit is written 1, a write of INT_MASK stores bits 0 to 6, and
INT# is asserted exactly while a flag is set whose mask bit is set. dataOut is the model's own field (log 4). -/
def Obligations.InterruptFlagsMaskAndPin : Prop :=
  (∀ (s : State) (v : Byte), s.inReset = false →
    ∃ f m : BitVec 7,
      (∀ i : Fin 7, f.getLsbD i.val = (s.intr.flags.getLsbD i.val && !v.getLsbD i.val))
        ∧ (∀ i : Fin 7, m.getLsbD i.val = v.getLsbD i.val)
        ∧ exec (.intFlagsClear v) s = .next { s with intr := { s.intr with flags := f }, dataOut := none }
        ∧ exec (.intMaskWrite v) s = .next { s with intr := { s.intr with mask := m }, dataOut := none })
    ∧ ∀ s : State, intAsserted s = true ↔
        s.inReset = false ∧ ∃ i : Fin 7, s.intr.flags.getLsbD i.val = true ∧ s.intr.mask.getLsbD i.val = true

/-- R177, R180, R181 and the power-on values of the blocks (R1, R61, R81, R108, R117, R142, R155, R161, R171, R176): from any
state; and the end of the reset, which begins the first interval. The row stands for any cause of the reset, and the
input pins keep their levels (logs 18 and 1). -/
def Obligations.PowerOnResetGivesThePowerOnValues : Prop :=
  (∀ s : State, ∃ t : State, exec .powerOnReset s = .next t
    ∧ t.inReset = true ∧ t.sfrm = s.sfrm ∧ t.shutoff = s.shutoff
    ∧ t.engine = .free ∧ t.pointer = 15 ∧ t.oe = false ∧ t.waiting = [] ∧ t.captures = []
    ∧ (∀ (n : Fin 32) (i : Fin 32), (entryImage t.entries[n] false)[i] =
        if i.val = 8 ∨ i.val = 15 ∨ i.val = 19 then 0xFF else 0)
    ∧ (∀ n : Fin 32, t.entries[n].lastValue = none ∧ t.entries[n].qual = .unloaded ∧ t.entries[n].shape = .unloaded
        ∧ NoClaim n t)
    ∧ (∀ (c : Fin 16) (i : Fin 32), (channelImage t.channels[c] false)[i] = 0)
    ∧ (∀ c : Fin 16, t.channels[c].fresh = .unloaded)
    ∧ (∀ (l : Fin 16) (i : Fin 32), (lineImage t.lines[l] t.exclusive[pairOf l] false)[i] = 0)
    ∧ (∀ a : Fin 8, t.accs[a] = 0)
    ∧ t.queue.records = [] ∧ t.queue.nextSeq = 0 ∧ t.queue.watermark = 1
    ∧ (∀ k : RecordKind, t.queue.marks.get k = false) ∧ t.queue.headLatch = Vector.replicate 12 0
    ∧ t.port = { reception := .disabled, shiftReg := 0, bitCount := 0, marker := 0, parity := 0, length := 0,
                 unrouted := 0, enabled := false, delivered := [], outcomes := [] }
    ∧ t.inj = { value := 0, latch := 0, tag := 0, result := .accepted }
    ∧ t.timebase = { tbdiv := 155, tbdivLatch := 0x9B, dividerInUse := 155, prescale := 0, timestamp := 0,
                     readLatch := 0 }
    ∧ t.cmd.state = .idle ∧ t.cmd.op = 0 ∧ t.cmd.arg0 = 0 ∧ t.cmd.arg1 = 0 ∧ t.cmd.captured0 = 0
    ∧ t.cmd.captured1 = 0 ∧ resultCode t.cmd.result = 0
    ∧ (∀ k : Fin 32, t.staging[k] = 0)
    ∧ t.intr = { flags := 0, mask := 0 }
    ∧ t.latches = { pin := 0, hold := 0, demand := 0, cut := 0, tripped := 0, armed := 0, channelState := 0 }
    ∧ t.dataOut = none ∧ (∀ c : Fin 16, t.due.channels[c] = 0) ∧ t.due.timestamp = 0 ∧ t.due.timerBank = 0
    ∧ (∀ (cs rd wr : Bool) (a : Address) (v : Byte), busEvent cs rd wr a v t = t ∧ dataPins cs rd wr t = none)
    ∧ (∀ a : Address, readWindow t a = 0) ∧ (∀ l : Fin 16, outLevel t l = false) ∧ intAsserted t = false)
    ∧ ∀ s : State, s.inReset = true →
      exec .powerOnResetEnd s = .next { s with
        inReset := false
        timebase := { s.timebase with dividerInUse := s.timebase.tbdiv, prescale := 0 } }

/-! # Trip conditions -/

/-- R23 to R25, Tables 2-3 to 2-5, with the use of the two tests in R22 and the cases of ABOVE and BELOW in R26: for every
stored configuration the two tests are never both met, a value that meets neither keeps the condition, the condition that
comes of either stored flag is, for every value, that of the test in Tables 2-3 and 2-4, each test falls at its boundary
as Table 2-5 says, and for ABOVE and BELOW a test whose boundary lies beyond the range is met by no value, or by every
value, as R26 lists. -/
def Obligations.ConditionBoundaries : Prop :=
  ∀ (c : EntryConfig) (L v : Int) (stored : Bool), hysteresisFits c = true →
    ¬ (activates c L v = true ∧ releases c L v = true)
      ∧ (activates c L v = false → releases c L v = false → newCondition c stored L v = stored)
      ∧ (c.compare = .above → c.hystSide = .releaseSide →
          (newCondition c false L v = true ↔ L ≤ v)
            ∧ (newCondition c true L v = false ↔ v < L - c.hysteresis.toNat)
            ∧ newCondition c false L L = true ∧ newCondition c false L (L - 1) = false
            ∧ newCondition c true L (L - c.hysteresis.toNat) = true
            ∧ newCondition c true L (L - c.hysteresis.toNat - 1) = false
            ∧ (L - c.hysteresis.toNat ≤ -32768 → -32768 ≤ v → newCondition c true L v = true)
            ∧ (L = -32768 → -32768 ≤ v → newCondition c false L v = true))
      ∧ (c.compare = .above → c.hystSide = .tripSide →
          (newCondition c false L v = true ↔ L + c.hysteresis.toNat < v)
            ∧ (newCondition c true L v = false ↔ v ≤ L)
            ∧ newCondition c false L (L + c.hysteresis.toNat) = false
            ∧ newCondition c false L (L + c.hysteresis.toNat + 1) = true
            ∧ newCondition c true L L = false ∧ newCondition c true L (L + 1) = true
            ∧ (32767 ≤ L + c.hysteresis.toNat → v ≤ 32767 → newCondition c false L v = false))
      ∧ (c.compare = .below → c.hystSide = .releaseSide →
          (newCondition c false L v = true ↔ v < L)
            ∧ (newCondition c true L v = false ↔ L + c.hysteresis.toNat ≤ v)
            ∧ newCondition c false L L = false ∧ newCondition c false L (L - 1) = true
            ∧ newCondition c true L (L + c.hysteresis.toNat) = false
            ∧ newCondition c true L (L + c.hysteresis.toNat - 1) = true
            ∧ (L = -32768 → -32768 ≤ v → newCondition c false L v = false)
            ∧ (32768 ≤ L + c.hysteresis.toNat → v ≤ 32767 → newCondition c true L v = true))
      ∧ (c.compare = .below → c.hystSide = .tripSide →
          (newCondition c false L v = true ↔ v < L - c.hysteresis.toNat)
            ∧ (newCondition c true L v = false ↔ L ≤ v)
            ∧ newCondition c false L (L - c.hysteresis.toNat) = false
            ∧ newCondition c false L (L - c.hysteresis.toNat - 1) = true
            ∧ newCondition c true L L = false ∧ newCondition c true L (L - 1) = true
            ∧ (L - c.hysteresis.toNat ≤ -32768 → -32768 ≤ v → newCondition c false L v = false))
      ∧ (c.compare = .inside → c.hystSide = .releaseSide →
          (newCondition c false L v = true ↔ |v - L| ≤ c.band.toNat)
            ∧ (newCondition c true L v = false ↔ c.band.toNat + c.hysteresis.toNat + 1 ≤ |v - L|))
      ∧ (c.compare = .inside → c.hystSide = .tripSide →
          (newCondition c false L v = true ↔ |v - L| + c.hysteresis.toNat ≤ c.band.toNat)
            ∧ (newCondition c true L v = false ↔ c.band.toNat + 1 ≤ |v - L|))
      ∧ (c.compare = .outside → c.hystSide = .releaseSide →
          (newCondition c false L v = true ↔ c.band.toNat + 1 ≤ |v - L|)
            ∧ (newCondition c true L v = false ↔ |v - L| + c.hysteresis.toNat ≤ c.band.toNat))
      ∧ (c.compare = .outside → c.hystSide = .tripSide →
          (newCondition c false L v = true ↔ c.band.toNat + c.hysteresis.toNat + 1 ≤ |v - L|)
            ∧ (newCondition c true L v = false ↔ |v - L| ≤ c.band.toNat))
end

