-- ==== Sys2Proof/Laws/Operands.lean ====
section
/-! SUPPORT. What the layout operations of Operands.lean do: tables read after a write, bytes put together again, index
and reference bytes, saturation, bit maps, and the codes of the enumerations read back. -/

namespace Sys2Proof.Machine

/-! ## Tables -/

/-- A table read after a write of one element. -/
theorem get_set {α : Type} {k : Nat} (v : Vector α k) (n m : Fin k) (x : α) :
    (v.set n x)[m] = if m = n then x else v[m] := by
  simp only [Fin.getElem_fin, Vector.getElem_set, Fin.ext_iff, eq_comm]

@[simp] theorem get_set_self {α : Type} {k : Nat} (v : Vector α k) (n : Fin k) (x : α) : (v.set n x)[n] = x := by
  simp

theorem get_set_ne {α : Type} {k : Nat} (v : Vector α k) {n m : Fin k} (x : α) (h : m ≠ n) :
    (v.set n x)[m] = v[m] := by
  rw [get_set, if_neg h]

@[simp] theorem get_mapVec {α β : Type} {k : Nat} (f : α → β) (v : Vector α k) (n : Fin k) :
    (mapVec f v)[n] = f v[n] := by
  simp [mapVec]

/-- Two tables are equal when they agree at every index. -/
theorem table_ext {α : Type} {k : Nat} {v w : Vector α k} (h : ∀ n : Fin k, v[n] = w[n]) : v = w :=
  Vector.ext fun i hi => h ⟨i, hi⟩

/-- Bit i of a packed field is f i. -/
theorem packBits_bit (n : Nat) (f : Fin n → Bool) (i : Fin n) : (packBits n f).getLsbD i.val = f i := by
  simp [packBits, -BitVec.getLsbD_eq_getElem]

/-! ## Bytes -/

/-- Byte k of a field as a number. -/
theorem byteOf_toNat {w : Nat} (x : BitVec w) (k : Nat) : (byteOf x k).toNat = x.toNat / 2 ^ (8 * k) % 256 := by
  simp [byteOf, Nat.shiftRight_eq_div_pow]

/-- Two bytes put together, as a number (Table 0-2). -/
theorem halfOf_toNat (low high : Byte) : (halfOf low high).toNat = 256 * high.toNat + low.toNat := by
  have h : (halfOf low high).toNat = high.toNat <<< 8 ||| low.toNat := BitVec.toNat_append high low
  rw [h, ← Nat.shiftLeft_add_eq_or_of_lt low.isLt, Nat.shiftLeft_eq]
  omega

/-- Four bytes put together, as a number (Table 0-2). -/
theorem wordOf_toNat (b0 b1 b2 b3 : Byte) :
    (wordOf b0 b1 b2 b3).toNat = 256 * (256 * (256 * b3.toNat + b2.toNat) + b1.toNat) + b0.toNat := by
  have h : (wordOf b0 b1 b2 b3).toNat = (b3 ++ b2 ++ b1).toNat <<< 8 ||| b0.toNat := BitVec.toNat_append _ b0
  have h1 : (b3 ++ b2 ++ b1).toNat = (b3 ++ b2).toNat <<< 8 ||| b1.toNat := BitVec.toNat_append _ b1
  have h2 : (b3 ++ b2).toNat = b3.toNat <<< 8 ||| b2.toNat := BitVec.toNat_append b3 b2
  rw [← Nat.shiftLeft_add_eq_or_of_lt b2.isLt, Nat.shiftLeft_eq] at h2
  rw [← Nat.shiftLeft_add_eq_or_of_lt b1.isLt, Nat.shiftLeft_eq] at h1
  rw [← Nat.shiftLeft_add_eq_or_of_lt b0.isLt, Nat.shiftLeft_eq] at h
  omega

/-- The two bytes of a 16-bit field, put together. -/
@[simp] theorem halfOf_bytes (x : Half) : halfOf (byteOf x 0) (byteOf x 1) = x := by
  apply BitVec.eq_of_toNat_eq
  simp only [halfOf_toNat, byteOf_toNat]
  omega

/-- The four bytes of a 32-bit field, put together. -/
@[simp] theorem wordOf_bytes (x : Word) : wordOf (byteOf x 0) (byteOf x 1) (byteOf x 2) (byteOf x 3) = x := by
  apply BitVec.eq_of_toNat_eq
  simp only [wordOf_toNat, byteOf_toNat]
  omega

/-! ## Saturation -/

/-- A number saturated to 16 bits, read back as a number. -/
theorem sat16_toInt (x : Int) : (sat16 x).toInt = max (-32768) (min 32767 x) := by
  rw [sat16, BitVec.toInt_ofInt]
  exact Int.bmod_eq_of_le (by omega) (by omega)

/-- A number saturated to 32 bits, read back as a number. -/
theorem sat32_toInt (x : Int) : (sat32 x).toInt = max (-2147483648) (min 2147483647 x) := by
  rw [sat32, BitVec.toInt_ofInt]
  exact Int.bmod_eq_of_le (by omega) (by omega)

/-- A counter that stays at the end of its range. -/
theorem satInc_toNat {w : Nat} (hw : 0 < w) (x : BitVec w) : (satInc x).toNat = min (2 ^ w - 1) (x.toNat + 1) := by
  have hx : x.toNat < 2 ^ w := x.isLt
  have hone : 1 < 2 ^ w := Nat.one_lt_two_pow (by omega)
  unfold satInc
  split
  · next h => subst h; simp only [BitVec.toNat_allOnes]; omega
  · next h =>
    have hne : x.toNat ≠ 2 ^ w - 1 := fun e => h (BitVec.eq_of_toNat_eq (by simpa using e))
    have h1 : (1 : BitVec w).toNat = 1 := by simpa using Nat.mod_eq_of_lt hone
    rw [BitVec.toNat_add, h1, Nat.mod_eq_of_lt (by omega)]
    omega

/-! ## Index and reference bytes -/

/-- An index argument that names something. -/
theorem indexOf_eq_some {n : Nat} {b : Byte} {i : Fin n} : indexOf n b = some i ↔ b.toNat = i.val := by
  unfold indexOf
  split
  · simp [Fin.ext_iff]
  · next h => simp only [reduceCtorEq, false_iff]; exact fun e => h (e ▸ i.isLt)

/-- An index argument above the highest of its kind (Table 10-2, Note). -/
theorem indexOf_eq_none {n : Nat} {b : Byte} : indexOf n b = none ↔ n ≤ b.toNat := by
  unfold indexOf
  split <;> simp <;> omega

/-- A reference byte read back names what it was written for (R4). -/
theorem parseRef_refByte {n : Nat} (hn : n ≤ 255) (r : Option (Fin n)) : parseRef n (refByte r) = some r := by
  cases r with
  | none => rfl
  | some i =>
    have hi : i.val < 255 := by omega
    have hb : (refByte (some i)).toNat = i.val := by
      simp only [refByte, BitVec.toNat_ofNat]; omega
    have hne : refByte (some i) ≠ 0xFF := fun e => by rw [e] at hb; simp at hb; omega
    rw [parseRef, if_neg hne, indexOf_eq_some.mpr hb]
    rfl

/-- A reference byte fails the range check when it is neither 0xFF nor an index (R7). -/
theorem parseRef_eq_none {n : Nat} {b : Byte} : parseRef n b = none ↔ b ≠ 0xFF ∧ n ≤ b.toNat := by
  unfold parseRef
  split
  · next h => simp [h]
  · next h => rw [Option.map_eq_none_iff, indexOf_eq_none]; exact ⟨fun e => ⟨h, e⟩, fun e => e.2⟩

/-! ## Codes read back -/

@[simp] theorem ofCode_compare (c : Compare) : Compare.ofCode c.code = c := by cases c <;> rfl
@[simp] theorem ofCode_faultPolicy (c : FaultPolicy) : FaultPolicy.ofCode c.code = some c := by cases c <;> rfl
@[simp] theorem ofCode_shaping (c : Shaping) : Shaping.ofCode c.code = some c := by cases c <;> rfl
@[simp] theorem ofCode_captureAction (c : CaptureAction) : CaptureAction.ofCode c.code = c := by cases c <;> rfl
@[simp] theorem ofCode_captureEdge (c : CaptureEdge) : CaptureEdge.ofCode c.code = some c := by cases c <;> rfl
@[simp] theorem ofCode_source (c : Source) : Source.ofCode c.code = some c := by cases c <;> rfl
@[simp] theorem ofCode_avgLen (c : AvgLen) : AvgLen.ofCode c.code = c := by cases c <;> rfl
@[simp] theorem ofCode_sampleStatus (c : SampleStatus) : SampleStatus.ofCode c.code = c := by cases c <;> rfl
@[simp] theorem ofCode_override (c : Override) : Override.ofCode c.code = some c := by cases c <;> rfl

end Sys2Proof.Machine
end

