-- ==== Sys2Proof/Laws/State.lean ====
section
/-! SUPPORT. One lemma per field per update of State: the updates the meanings are built from leave every other field as
it was. All true by rfl, all simp lemmas, so that no proof unfolds a record update. -/

namespace Sys2Proof.Machine

variable (s : State)

/-! ## modEntry -/

@[simp] theorem modEntry_pending (n : Fin 32) (f : Entry → Entry) : (modEntry n f s).pending = s.pending := rfl
@[simp] theorem modEntry_inReset (n : Fin 32) (f : Entry → Entry) : (modEntry n f s).inReset = s.inReset := rfl
@[simp] theorem modEntry_sfrm (n : Fin 32) (f : Entry → Entry) : (modEntry n f s).sfrm = s.sfrm := rfl
@[simp] theorem modEntry_shutoff (n : Fin 32) (f : Entry → Entry) : (modEntry n f s).shutoff = s.shutoff := rfl
@[simp] theorem modEntry_engine (n : Fin 32) (f : Entry → Entry) : (modEntry n f s).engine = s.engine := rfl
@[simp] theorem modEntry_pointer (n : Fin 32) (f : Entry → Entry) : (modEntry n f s).pointer = s.pointer := rfl
@[simp] theorem modEntry_channels (n : Fin 32) (f : Entry → Entry) : (modEntry n f s).channels = s.channels := rfl
@[simp] theorem modEntry_lines (n : Fin 32) (f : Entry → Entry) : (modEntry n f s).lines = s.lines := rfl
@[simp] theorem modEntry_exclusive (n : Fin 32) (f : Entry → Entry) : (modEntry n f s).exclusive = s.exclusive := rfl
@[simp] theorem modEntry_oe (n : Fin 32) (f : Entry → Entry) : (modEntry n f s).oe = s.oe := rfl
@[simp] theorem modEntry_queue (n : Fin 32) (f : Entry → Entry) : (modEntry n f s).queue = s.queue := rfl
@[simp] theorem modEntry_waiting (n : Fin 32) (f : Entry → Entry) : (modEntry n f s).waiting = s.waiting := rfl
@[simp] theorem modEntry_accs (n : Fin 32) (f : Entry → Entry) : (modEntry n f s).accs = s.accs := rfl
@[simp] theorem modEntry_captures (n : Fin 32) (f : Entry → Entry) : (modEntry n f s).captures = s.captures := rfl
@[simp] theorem modEntry_port (n : Fin 32) (f : Entry → Entry) : (modEntry n f s).port = s.port := rfl
@[simp] theorem modEntry_inj (n : Fin 32) (f : Entry → Entry) : (modEntry n f s).inj = s.inj := rfl
@[simp] theorem modEntry_timebase (n : Fin 32) (f : Entry → Entry) : (modEntry n f s).timebase = s.timebase := rfl
@[simp] theorem modEntry_due (n : Fin 32) (f : Entry → Entry) : (modEntry n f s).due = s.due := rfl
@[simp] theorem modEntry_cmd (n : Fin 32) (f : Entry → Entry) : (modEntry n f s).cmd = s.cmd := rfl
@[simp] theorem modEntry_staging (n : Fin 32) (f : Entry → Entry) : (modEntry n f s).staging = s.staging := rfl
@[simp] theorem modEntry_intr (n : Fin 32) (f : Entry → Entry) : (modEntry n f s).intr = s.intr := rfl
@[simp] theorem modEntry_latches (n : Fin 32) (f : Entry → Entry) : (modEntry n f s).latches = s.latches := rfl
@[simp] theorem modEntry_dataOut (n : Fin 32) (f : Entry → Entry) : (modEntry n f s).dataOut = s.dataOut := rfl
@[simp] theorem modEntry_workItem (n : Fin 32) (f : Entry → Entry) : (modEntry n f s).workItem = s.workItem := rfl
@[simp] theorem modEntry_freeCount (n : Fin 32) (f : Entry → Entry) : (modEntry n f s).freeCount = s.freeCount := rfl

/-! ## modChannel -/

@[simp] theorem modChannel_pending (c : Fin 16) (f : Channel → Channel) : (modChannel c f s).pending = s.pending := rfl
@[simp] theorem modChannel_inReset (c : Fin 16) (f : Channel → Channel) : (modChannel c f s).inReset = s.inReset := rfl
@[simp] theorem modChannel_sfrm (c : Fin 16) (f : Channel → Channel) : (modChannel c f s).sfrm = s.sfrm := rfl
@[simp] theorem modChannel_shutoff (c : Fin 16) (f : Channel → Channel) : (modChannel c f s).shutoff = s.shutoff := rfl
@[simp] theorem modChannel_entries (c : Fin 16) (f : Channel → Channel) : (modChannel c f s).entries = s.entries := rfl
@[simp] theorem modChannel_engine (c : Fin 16) (f : Channel → Channel) : (modChannel c f s).engine = s.engine := rfl
@[simp] theorem modChannel_pointer (c : Fin 16) (f : Channel → Channel) : (modChannel c f s).pointer = s.pointer := rfl
@[simp] theorem modChannel_lines (c : Fin 16) (f : Channel → Channel) : (modChannel c f s).lines = s.lines := rfl
@[simp] theorem modChannel_exclusive (c : Fin 16) (f : Channel → Channel) : (modChannel c f s).exclusive = s.exclusive := rfl
@[simp] theorem modChannel_oe (c : Fin 16) (f : Channel → Channel) : (modChannel c f s).oe = s.oe := rfl
@[simp] theorem modChannel_queue (c : Fin 16) (f : Channel → Channel) : (modChannel c f s).queue = s.queue := rfl
@[simp] theorem modChannel_waiting (c : Fin 16) (f : Channel → Channel) : (modChannel c f s).waiting = s.waiting := rfl
@[simp] theorem modChannel_accs (c : Fin 16) (f : Channel → Channel) : (modChannel c f s).accs = s.accs := rfl
@[simp] theorem modChannel_captures (c : Fin 16) (f : Channel → Channel) : (modChannel c f s).captures = s.captures := rfl
@[simp] theorem modChannel_port (c : Fin 16) (f : Channel → Channel) : (modChannel c f s).port = s.port := rfl
@[simp] theorem modChannel_inj (c : Fin 16) (f : Channel → Channel) : (modChannel c f s).inj = s.inj := rfl
@[simp] theorem modChannel_timebase (c : Fin 16) (f : Channel → Channel) : (modChannel c f s).timebase = s.timebase := rfl
@[simp] theorem modChannel_due (c : Fin 16) (f : Channel → Channel) : (modChannel c f s).due = s.due := rfl
@[simp] theorem modChannel_cmd (c : Fin 16) (f : Channel → Channel) : (modChannel c f s).cmd = s.cmd := rfl
@[simp] theorem modChannel_staging (c : Fin 16) (f : Channel → Channel) : (modChannel c f s).staging = s.staging := rfl
@[simp] theorem modChannel_intr (c : Fin 16) (f : Channel → Channel) : (modChannel c f s).intr = s.intr := rfl
@[simp] theorem modChannel_latches (c : Fin 16) (f : Channel → Channel) : (modChannel c f s).latches = s.latches := rfl
@[simp] theorem modChannel_dataOut (c : Fin 16) (f : Channel → Channel) : (modChannel c f s).dataOut = s.dataOut := rfl
@[simp] theorem modChannel_workItem (c : Fin 16) (f : Channel → Channel) : (modChannel c f s).workItem = s.workItem := rfl
@[simp] theorem modChannel_freeCount (c : Fin 16) (f : Channel → Channel) : (modChannel c f s).freeCount = s.freeCount := rfl

/-! ## modLine -/

@[simp] theorem modLine_pending (l : Fin 16) (f : Line → Line) : (modLine l f s).pending = s.pending := rfl
@[simp] theorem modLine_inReset (l : Fin 16) (f : Line → Line) : (modLine l f s).inReset = s.inReset := rfl
@[simp] theorem modLine_sfrm (l : Fin 16) (f : Line → Line) : (modLine l f s).sfrm = s.sfrm := rfl
@[simp] theorem modLine_shutoff (l : Fin 16) (f : Line → Line) : (modLine l f s).shutoff = s.shutoff := rfl
@[simp] theorem modLine_entries (l : Fin 16) (f : Line → Line) : (modLine l f s).entries = s.entries := rfl
@[simp] theorem modLine_engine (l : Fin 16) (f : Line → Line) : (modLine l f s).engine = s.engine := rfl
@[simp] theorem modLine_pointer (l : Fin 16) (f : Line → Line) : (modLine l f s).pointer = s.pointer := rfl
@[simp] theorem modLine_channels (l : Fin 16) (f : Line → Line) : (modLine l f s).channels = s.channels := rfl
@[simp] theorem modLine_exclusive (l : Fin 16) (f : Line → Line) : (modLine l f s).exclusive = s.exclusive := rfl
@[simp] theorem modLine_oe (l : Fin 16) (f : Line → Line) : (modLine l f s).oe = s.oe := rfl
@[simp] theorem modLine_queue (l : Fin 16) (f : Line → Line) : (modLine l f s).queue = s.queue := rfl
@[simp] theorem modLine_waiting (l : Fin 16) (f : Line → Line) : (modLine l f s).waiting = s.waiting := rfl
@[simp] theorem modLine_accs (l : Fin 16) (f : Line → Line) : (modLine l f s).accs = s.accs := rfl
@[simp] theorem modLine_captures (l : Fin 16) (f : Line → Line) : (modLine l f s).captures = s.captures := rfl
@[simp] theorem modLine_port (l : Fin 16) (f : Line → Line) : (modLine l f s).port = s.port := rfl
@[simp] theorem modLine_inj (l : Fin 16) (f : Line → Line) : (modLine l f s).inj = s.inj := rfl
@[simp] theorem modLine_timebase (l : Fin 16) (f : Line → Line) : (modLine l f s).timebase = s.timebase := rfl
@[simp] theorem modLine_due (l : Fin 16) (f : Line → Line) : (modLine l f s).due = s.due := rfl
@[simp] theorem modLine_cmd (l : Fin 16) (f : Line → Line) : (modLine l f s).cmd = s.cmd := rfl
@[simp] theorem modLine_staging (l : Fin 16) (f : Line → Line) : (modLine l f s).staging = s.staging := rfl
@[simp] theorem modLine_intr (l : Fin 16) (f : Line → Line) : (modLine l f s).intr = s.intr := rfl
@[simp] theorem modLine_latches (l : Fin 16) (f : Line → Line) : (modLine l f s).latches = s.latches := rfl
@[simp] theorem modLine_dataOut (l : Fin 16) (f : Line → Line) : (modLine l f s).dataOut = s.dataOut := rfl
@[simp] theorem modLine_workItem (l : Fin 16) (f : Line → Line) : (modLine l f s).workItem = s.workItem := rfl
@[simp] theorem modLine_freeCount (l : Fin 16) (f : Line → Line) : (modLine l f s).freeCount = s.freeCount := rfl

/-! ## modPort -/

@[simp] theorem modPort_pending (f : Port → Port) : (modPort f s).pending = s.pending := rfl
@[simp] theorem modPort_inReset (f : Port → Port) : (modPort f s).inReset = s.inReset := rfl
@[simp] theorem modPort_sfrm (f : Port → Port) : (modPort f s).sfrm = s.sfrm := rfl
@[simp] theorem modPort_shutoff (f : Port → Port) : (modPort f s).shutoff = s.shutoff := rfl
@[simp] theorem modPort_entries (f : Port → Port) : (modPort f s).entries = s.entries := rfl
@[simp] theorem modPort_engine (f : Port → Port) : (modPort f s).engine = s.engine := rfl
@[simp] theorem modPort_pointer (f : Port → Port) : (modPort f s).pointer = s.pointer := rfl
@[simp] theorem modPort_channels (f : Port → Port) : (modPort f s).channels = s.channels := rfl
@[simp] theorem modPort_lines (f : Port → Port) : (modPort f s).lines = s.lines := rfl
@[simp] theorem modPort_exclusive (f : Port → Port) : (modPort f s).exclusive = s.exclusive := rfl
@[simp] theorem modPort_oe (f : Port → Port) : (modPort f s).oe = s.oe := rfl
@[simp] theorem modPort_queue (f : Port → Port) : (modPort f s).queue = s.queue := rfl
@[simp] theorem modPort_waiting (f : Port → Port) : (modPort f s).waiting = s.waiting := rfl
@[simp] theorem modPort_accs (f : Port → Port) : (modPort f s).accs = s.accs := rfl
@[simp] theorem modPort_captures (f : Port → Port) : (modPort f s).captures = s.captures := rfl
@[simp] theorem modPort_inj (f : Port → Port) : (modPort f s).inj = s.inj := rfl
@[simp] theorem modPort_timebase (f : Port → Port) : (modPort f s).timebase = s.timebase := rfl
@[simp] theorem modPort_due (f : Port → Port) : (modPort f s).due = s.due := rfl
@[simp] theorem modPort_cmd (f : Port → Port) : (modPort f s).cmd = s.cmd := rfl
@[simp] theorem modPort_staging (f : Port → Port) : (modPort f s).staging = s.staging := rfl
@[simp] theorem modPort_intr (f : Port → Port) : (modPort f s).intr = s.intr := rfl
@[simp] theorem modPort_latches (f : Port → Port) : (modPort f s).latches = s.latches := rfl
@[simp] theorem modPort_dataOut (f : Port → Port) : (modPort f s).dataOut = s.dataOut := rfl
@[simp] theorem modPort_workItem (f : Port → Port) : (modPort f s).workItem = s.workItem := rfl
@[simp] theorem modPort_freeCount (f : Port → Port) : (modPort f s).freeCount = s.freeCount := rfl

/-! ## request -/

@[simp] theorem request_pending (f : Flag) : (request f s).pending = s.pending := rfl
@[simp] theorem request_inReset (f : Flag) : (request f s).inReset = s.inReset := rfl
@[simp] theorem request_sfrm (f : Flag) : (request f s).sfrm = s.sfrm := rfl
@[simp] theorem request_shutoff (f : Flag) : (request f s).shutoff = s.shutoff := rfl
@[simp] theorem request_entries (f : Flag) : (request f s).entries = s.entries := rfl
@[simp] theorem request_engine (f : Flag) : (request f s).engine = s.engine := rfl
@[simp] theorem request_pointer (f : Flag) : (request f s).pointer = s.pointer := rfl
@[simp] theorem request_channels (f : Flag) : (request f s).channels = s.channels := rfl
@[simp] theorem request_lines (f : Flag) : (request f s).lines = s.lines := rfl
@[simp] theorem request_exclusive (f : Flag) : (request f s).exclusive = s.exclusive := rfl
@[simp] theorem request_oe (f : Flag) : (request f s).oe = s.oe := rfl
@[simp] theorem request_queue (f : Flag) : (request f s).queue = s.queue := rfl
@[simp] theorem request_waiting (f : Flag) : (request f s).waiting = s.waiting := rfl
@[simp] theorem request_accs (f : Flag) : (request f s).accs = s.accs := rfl
@[simp] theorem request_captures (f : Flag) : (request f s).captures = s.captures := rfl
@[simp] theorem request_port (f : Flag) : (request f s).port = s.port := rfl
@[simp] theorem request_inj (f : Flag) : (request f s).inj = s.inj := rfl
@[simp] theorem request_timebase (f : Flag) : (request f s).timebase = s.timebase := rfl
@[simp] theorem request_due (f : Flag) : (request f s).due = s.due := rfl
@[simp] theorem request_cmd (f : Flag) : (request f s).cmd = s.cmd := rfl
@[simp] theorem request_staging (f : Flag) : (request f s).staging = s.staging := rfl
@[simp] theorem request_latches (f : Flag) : (request f s).latches = s.latches := rfl
@[simp] theorem request_dataOut (f : Flag) : (request f s).dataOut = s.dataOut := rfl
@[simp] theorem request_workItem (f : Flag) : (request f s).workItem = s.workItem := rfl
@[simp] theorem request_freeCount (f : Flag) : (request f s).freeCount = s.freeCount := rfl

/-! ## complete -/

@[simp] theorem complete_pending (r : Result) : (complete r s).pending = s.pending := rfl
@[simp] theorem complete_inReset (r : Result) : (complete r s).inReset = s.inReset := rfl
@[simp] theorem complete_sfrm (r : Result) : (complete r s).sfrm = s.sfrm := rfl
@[simp] theorem complete_shutoff (r : Result) : (complete r s).shutoff = s.shutoff := rfl
@[simp] theorem complete_entries (r : Result) : (complete r s).entries = s.entries := rfl
@[simp] theorem complete_engine (r : Result) : (complete r s).engine = s.engine := rfl
@[simp] theorem complete_pointer (r : Result) : (complete r s).pointer = s.pointer := rfl
@[simp] theorem complete_channels (r : Result) : (complete r s).channels = s.channels := rfl
@[simp] theorem complete_lines (r : Result) : (complete r s).lines = s.lines := rfl
@[simp] theorem complete_exclusive (r : Result) : (complete r s).exclusive = s.exclusive := rfl
@[simp] theorem complete_oe (r : Result) : (complete r s).oe = s.oe := rfl
@[simp] theorem complete_queue (r : Result) : (complete r s).queue = s.queue := rfl
@[simp] theorem complete_waiting (r : Result) : (complete r s).waiting = s.waiting := rfl
@[simp] theorem complete_accs (r : Result) : (complete r s).accs = s.accs := rfl
@[simp] theorem complete_captures (r : Result) : (complete r s).captures = s.captures := rfl
@[simp] theorem complete_port (r : Result) : (complete r s).port = s.port := rfl
@[simp] theorem complete_inj (r : Result) : (complete r s).inj = s.inj := rfl
@[simp] theorem complete_timebase (r : Result) : (complete r s).timebase = s.timebase := rfl
@[simp] theorem complete_due (r : Result) : (complete r s).due = s.due := rfl
@[simp] theorem complete_staging (r : Result) : (complete r s).staging = s.staging := rfl
@[simp] theorem complete_latches (r : Result) : (complete r s).latches = s.latches := rfl
@[simp] theorem complete_dataOut (r : Result) : (complete r s).dataOut = s.dataOut := rfl
@[simp] theorem complete_workItem (r : Result) : (complete r s).workItem = s.workItem := rfl
@[simp] theorem complete_freeCount (r : Result) : (complete r s).freeCount = s.freeCount := rfl

/-! ## takeClaim -/

@[simp] theorem takeClaim_pending (c : Claim) : (takeClaim c s).pending = s.pending := rfl
@[simp] theorem takeClaim_inReset (c : Claim) : (takeClaim c s).inReset = s.inReset := rfl
@[simp] theorem takeClaim_sfrm (c : Claim) : (takeClaim c s).sfrm = s.sfrm := rfl
@[simp] theorem takeClaim_shutoff (c : Claim) : (takeClaim c s).shutoff = s.shutoff := rfl
@[simp] theorem takeClaim_entries (c : Claim) : (takeClaim c s).entries = s.entries := rfl
@[simp] theorem takeClaim_pointer (c : Claim) : (takeClaim c s).pointer = s.pointer := rfl
@[simp] theorem takeClaim_channels (c : Claim) : (takeClaim c s).channels = s.channels := rfl
@[simp] theorem takeClaim_lines (c : Claim) : (takeClaim c s).lines = s.lines := rfl
@[simp] theorem takeClaim_exclusive (c : Claim) : (takeClaim c s).exclusive = s.exclusive := rfl
@[simp] theorem takeClaim_oe (c : Claim) : (takeClaim c s).oe = s.oe := rfl
@[simp] theorem takeClaim_queue (c : Claim) : (takeClaim c s).queue = s.queue := rfl
@[simp] theorem takeClaim_waiting (c : Claim) : (takeClaim c s).waiting = s.waiting := rfl
@[simp] theorem takeClaim_accs (c : Claim) : (takeClaim c s).accs = s.accs := rfl
@[simp] theorem takeClaim_captures (c : Claim) : (takeClaim c s).captures = s.captures := rfl
@[simp] theorem takeClaim_port (c : Claim) : (takeClaim c s).port = s.port := rfl
@[simp] theorem takeClaim_inj (c : Claim) : (takeClaim c s).inj = s.inj := rfl
@[simp] theorem takeClaim_timebase (c : Claim) : (takeClaim c s).timebase = s.timebase := rfl
@[simp] theorem takeClaim_due (c : Claim) : (takeClaim c s).due = s.due := rfl
@[simp] theorem takeClaim_cmd (c : Claim) : (takeClaim c s).cmd = s.cmd := rfl
@[simp] theorem takeClaim_staging (c : Claim) : (takeClaim c s).staging = s.staging := rfl
@[simp] theorem takeClaim_intr (c : Claim) : (takeClaim c s).intr = s.intr := rfl
@[simp] theorem takeClaim_latches (c : Claim) : (takeClaim c s).latches = s.latches := rfl
@[simp] theorem takeClaim_dataOut (c : Claim) : (takeClaim c s).dataOut = s.dataOut := rfl
@[simp] theorem takeClaim_freeCount (c : Claim) : (takeClaim c s).freeCount = s.freeCount := rfl

/-! ## handOver -/

@[simp] theorem handOver_pending (w : Submitter) (i : Bool) (b : RecordBody) : (handOver w i b s).pending = s.pending := rfl
@[simp] theorem handOver_inReset (w : Submitter) (i : Bool) (b : RecordBody) : (handOver w i b s).inReset = s.inReset := rfl
@[simp] theorem handOver_sfrm (w : Submitter) (i : Bool) (b : RecordBody) : (handOver w i b s).sfrm = s.sfrm := rfl
@[simp] theorem handOver_shutoff (w : Submitter) (i : Bool) (b : RecordBody) : (handOver w i b s).shutoff = s.shutoff := rfl
@[simp] theorem handOver_entries (w : Submitter) (i : Bool) (b : RecordBody) : (handOver w i b s).entries = s.entries := rfl
@[simp] theorem handOver_engine (w : Submitter) (i : Bool) (b : RecordBody) : (handOver w i b s).engine = s.engine := rfl
@[simp] theorem handOver_pointer (w : Submitter) (i : Bool) (b : RecordBody) : (handOver w i b s).pointer = s.pointer := rfl
@[simp] theorem handOver_channels (w : Submitter) (i : Bool) (b : RecordBody) : (handOver w i b s).channels = s.channels := rfl
@[simp] theorem handOver_lines (w : Submitter) (i : Bool) (b : RecordBody) : (handOver w i b s).lines = s.lines := rfl
@[simp] theorem handOver_exclusive (w : Submitter) (i : Bool) (b : RecordBody) : (handOver w i b s).exclusive = s.exclusive := rfl
@[simp] theorem handOver_oe (w : Submitter) (i : Bool) (b : RecordBody) : (handOver w i b s).oe = s.oe := rfl
@[simp] theorem handOver_queue (w : Submitter) (i : Bool) (b : RecordBody) : (handOver w i b s).queue = s.queue := rfl
@[simp] theorem handOver_accs (w : Submitter) (i : Bool) (b : RecordBody) : (handOver w i b s).accs = s.accs := rfl
@[simp] theorem handOver_captures (w : Submitter) (i : Bool) (b : RecordBody) : (handOver w i b s).captures = s.captures := rfl
@[simp] theorem handOver_port (w : Submitter) (i : Bool) (b : RecordBody) : (handOver w i b s).port = s.port := rfl
@[simp] theorem handOver_inj (w : Submitter) (i : Bool) (b : RecordBody) : (handOver w i b s).inj = s.inj := rfl
@[simp] theorem handOver_timebase (w : Submitter) (i : Bool) (b : RecordBody) : (handOver w i b s).timebase = s.timebase := rfl
@[simp] theorem handOver_due (w : Submitter) (i : Bool) (b : RecordBody) : (handOver w i b s).due = s.due := rfl
@[simp] theorem handOver_cmd (w : Submitter) (i : Bool) (b : RecordBody) : (handOver w i b s).cmd = s.cmd := rfl
@[simp] theorem handOver_staging (w : Submitter) (i : Bool) (b : RecordBody) : (handOver w i b s).staging = s.staging := rfl
@[simp] theorem handOver_intr (w : Submitter) (i : Bool) (b : RecordBody) : (handOver w i b s).intr = s.intr := rfl
@[simp] theorem handOver_latches (w : Submitter) (i : Bool) (b : RecordBody) : (handOver w i b s).latches = s.latches := rfl
@[simp] theorem handOver_dataOut (w : Submitter) (i : Bool) (b : RecordBody) : (handOver w i b s).dataOut = s.dataOut := rfl
@[simp] theorem handOver_workItem (w : Submitter) (i : Bool) (b : RecordBody) : (handOver w i b s).workItem = s.workItem := rfl
@[simp] theorem handOver_freeCount (w : Submitter) (i : Bool) (b : RecordBody) : (handOver w i b s).freeCount = s.freeCount := rfl

/-! ## driveOut -/

@[simp] theorem driveOut_pending (b : Byte) : (driveOut b s).pending = s.pending := rfl
@[simp] theorem driveOut_inReset (b : Byte) : (driveOut b s).inReset = s.inReset := rfl
@[simp] theorem driveOut_sfrm (b : Byte) : (driveOut b s).sfrm = s.sfrm := rfl
@[simp] theorem driveOut_shutoff (b : Byte) : (driveOut b s).shutoff = s.shutoff := rfl
@[simp] theorem driveOut_entries (b : Byte) : (driveOut b s).entries = s.entries := rfl
@[simp] theorem driveOut_engine (b : Byte) : (driveOut b s).engine = s.engine := rfl
@[simp] theorem driveOut_pointer (b : Byte) : (driveOut b s).pointer = s.pointer := rfl
@[simp] theorem driveOut_channels (b : Byte) : (driveOut b s).channels = s.channels := rfl
@[simp] theorem driveOut_lines (b : Byte) : (driveOut b s).lines = s.lines := rfl
@[simp] theorem driveOut_exclusive (b : Byte) : (driveOut b s).exclusive = s.exclusive := rfl
@[simp] theorem driveOut_oe (b : Byte) : (driveOut b s).oe = s.oe := rfl
@[simp] theorem driveOut_queue (b : Byte) : (driveOut b s).queue = s.queue := rfl
@[simp] theorem driveOut_waiting (b : Byte) : (driveOut b s).waiting = s.waiting := rfl
@[simp] theorem driveOut_accs (b : Byte) : (driveOut b s).accs = s.accs := rfl
@[simp] theorem driveOut_captures (b : Byte) : (driveOut b s).captures = s.captures := rfl
@[simp] theorem driveOut_port (b : Byte) : (driveOut b s).port = s.port := rfl
@[simp] theorem driveOut_inj (b : Byte) : (driveOut b s).inj = s.inj := rfl
@[simp] theorem driveOut_timebase (b : Byte) : (driveOut b s).timebase = s.timebase := rfl
@[simp] theorem driveOut_due (b : Byte) : (driveOut b s).due = s.due := rfl
@[simp] theorem driveOut_cmd (b : Byte) : (driveOut b s).cmd = s.cmd := rfl
@[simp] theorem driveOut_staging (b : Byte) : (driveOut b s).staging = s.staging := rfl
@[simp] theorem driveOut_intr (b : Byte) : (driveOut b s).intr = s.intr := rfl
@[simp] theorem driveOut_latches (b : Byte) : (driveOut b s).latches = s.latches := rfl
@[simp] theorem driveOut_workItem (b : Byte) : (driveOut b s).workItem = s.workItem := rfl
@[simp] theorem driveOut_freeCount (b : Byte) : (driveOut b s).freeCount = s.freeCount := rfl

/-! ## floatData -/

@[simp] theorem floatData_pending : (floatData s).pending = s.pending := rfl
@[simp] theorem floatData_inReset : (floatData s).inReset = s.inReset := rfl
@[simp] theorem floatData_sfrm : (floatData s).sfrm = s.sfrm := rfl
@[simp] theorem floatData_shutoff : (floatData s).shutoff = s.shutoff := rfl
@[simp] theorem floatData_entries : (floatData s).entries = s.entries := rfl
@[simp] theorem floatData_engine : (floatData s).engine = s.engine := rfl
@[simp] theorem floatData_pointer : (floatData s).pointer = s.pointer := rfl
@[simp] theorem floatData_channels : (floatData s).channels = s.channels := rfl
@[simp] theorem floatData_lines : (floatData s).lines = s.lines := rfl
@[simp] theorem floatData_exclusive : (floatData s).exclusive = s.exclusive := rfl
@[simp] theorem floatData_oe : (floatData s).oe = s.oe := rfl
@[simp] theorem floatData_queue : (floatData s).queue = s.queue := rfl
@[simp] theorem floatData_waiting : (floatData s).waiting = s.waiting := rfl
@[simp] theorem floatData_accs : (floatData s).accs = s.accs := rfl
@[simp] theorem floatData_captures : (floatData s).captures = s.captures := rfl
@[simp] theorem floatData_port : (floatData s).port = s.port := rfl
@[simp] theorem floatData_inj : (floatData s).inj = s.inj := rfl
@[simp] theorem floatData_timebase : (floatData s).timebase = s.timebase := rfl
@[simp] theorem floatData_due : (floatData s).due = s.due := rfl
@[simp] theorem floatData_cmd : (floatData s).cmd = s.cmd := rfl
@[simp] theorem floatData_staging : (floatData s).staging = s.staging := rfl
@[simp] theorem floatData_intr : (floatData s).intr = s.intr := rfl
@[simp] theorem floatData_latches : (floatData s).latches = s.latches := rfl
@[simp] theorem floatData_workItem : (floatData s).workItem = s.workItem := rfl
@[simp] theorem floatData_freeCount : (floatData s).freeCount = s.freeCount := rfl

/-! ## refreshPins -/

@[simp] theorem refreshPins_pending : (refreshPins s).pending = s.pending := rfl
@[simp] theorem refreshPins_inReset : (refreshPins s).inReset = s.inReset := rfl
@[simp] theorem refreshPins_sfrm : (refreshPins s).sfrm = s.sfrm := rfl
@[simp] theorem refreshPins_shutoff : (refreshPins s).shutoff = s.shutoff := rfl
@[simp] theorem refreshPins_entries : (refreshPins s).entries = s.entries := rfl
@[simp] theorem refreshPins_engine : (refreshPins s).engine = s.engine := rfl
@[simp] theorem refreshPins_pointer : (refreshPins s).pointer = s.pointer := rfl
@[simp] theorem refreshPins_channels : (refreshPins s).channels = s.channels := rfl
@[simp] theorem refreshPins_exclusive : (refreshPins s).exclusive = s.exclusive := rfl
@[simp] theorem refreshPins_oe : (refreshPins s).oe = s.oe := rfl
@[simp] theorem refreshPins_queue : (refreshPins s).queue = s.queue := rfl
@[simp] theorem refreshPins_waiting : (refreshPins s).waiting = s.waiting := rfl
@[simp] theorem refreshPins_accs : (refreshPins s).accs = s.accs := rfl
@[simp] theorem refreshPins_captures : (refreshPins s).captures = s.captures := rfl
@[simp] theorem refreshPins_port : (refreshPins s).port = s.port := rfl
@[simp] theorem refreshPins_inj : (refreshPins s).inj = s.inj := rfl
@[simp] theorem refreshPins_timebase : (refreshPins s).timebase = s.timebase := rfl
@[simp] theorem refreshPins_due : (refreshPins s).due = s.due := rfl
@[simp] theorem refreshPins_cmd : (refreshPins s).cmd = s.cmd := rfl
@[simp] theorem refreshPins_staging : (refreshPins s).staging = s.staging := rfl
@[simp] theorem refreshPins_intr : (refreshPins s).intr = s.intr := rfl
@[simp] theorem refreshPins_latches : (refreshPins s).latches = s.latches := rfl
@[simp] theorem refreshPins_dataOut : (refreshPins s).dataOut = s.dataOut := rfl
@[simp] theorem refreshPins_workItem : (refreshPins s).workItem = s.workItem := rfl
@[simp] theorem refreshPins_freeCount : (refreshPins s).freeCount = s.freeCount := rfl

/-! ## The field an update writes -/

@[simp] theorem modEntry_entries (n : Fin 32) (f : Entry → Entry) :
    (modEntry n f s).entries = s.entries.set n (f s.entries[n]) := rfl
@[simp] theorem modChannel_channels (c : Fin 16) (f : Channel → Channel) :
    (modChannel c f s).channels = s.channels.set c (f s.channels[c]) := rfl
@[simp] theorem modLine_lines (l : Fin 16) (f : Line → Line) :
    (modLine l f s).lines = s.lines.set l (f s.lines[l]) := rfl
@[simp] theorem modPort_port (f : Port → Port) : (modPort f s).port = f s.port := rfl
@[simp] theorem request_mask (f : Flag) : (request f s).intr.mask = s.intr.mask := rfl
@[simp] theorem request_flags (f : Flag) : (request f s).intr.flags = s.intr.flags ||| f.mask := rfl
@[simp] theorem complete_mask (r : Result) : (complete r s).intr.mask = s.intr.mask := rfl
@[simp] theorem complete_flags (r : Result) : (complete r s).intr.flags = s.intr.flags ||| Flag.cmd.mask := rfl
@[simp] theorem complete_cmd (r : Result) : (complete r s).cmd = { s.cmd with result := r, state := .done } := rfl
@[simp] theorem takeClaim_engine (c : Claim) : (takeClaim c s).engine = .taken c := rfl
@[simp] theorem takeClaim_workItem (c : Claim) : (takeClaim c s).workItem = s.workItem + 1 := rfl
@[simp] theorem handOver_waiting (w : Submitter) (i : Bool) (b : RecordBody) :
    (handOver w i b s).waiting = s.waiting ++ [{ submitter := w, item := s.workItem, loose := i, body := b }] := rfl
@[simp] theorem driveOut_dataOut (b : Byte) : (driveOut b s).dataOut = some b := rfl
@[simp] theorem floatData_dataOut : (floatData s).dataOut = none := rfl

end Sys2Proof.Machine
end

