-- ==== Sys2Proof/Laws/Ops.lean ====
section
/-! SUPPORT. What the shared operations can do, once for each: who is served, which expiry and which channel is next,
what a tick makes of a timer, which submission the queue can take and what it does with it, what a host cycle does. -/

namespace Sys2Proof.Machine

/-! ## Occasions -/

/-- A request made on the occasion `b` only. -/
theorem requestIf_eq (b : Bool) (f : Flag) (s : State) :
    requestIf b f s = { s with intr := { s.intr with flags := s.intr.flags ||| if b then f.mask else 0 } } := by
  cases b
  · simp [requestIf]
  · rfl

/-- A record handed over on the occasion `b` only. -/
theorem handOverIf_eq (b : Bool) (w : Submitter) (i : Bool) (r : RecordBody) (s : State) :
    handOverIf b w i r s =
      { s with waiting := s.waiting ++ if b then [{ submitter := w, item := s.workItem, loose := i, body := r }] else [] } := by
  cases b
  · simp [handOverIf]
  · rfl

/-! ## Service -/

/-- A command is with its owner exactly while it is PENDING and CMD_OP holds its opcode. -/
theorem ready_iff {c : Command} {s : State} : ready c s = true ↔ s.cmd.state = .pending ∧ s.cmd.op = encodeOpcode c := by
  simp [ready]

/-- No expiry waits exactly when no entry has a claim. -/
theorem nextExpiry_eq_none {s : State} :
    nextExpiry s = none ↔ ∀ n : Fin 32, s.entries[n].qualClaim = false ∧ s.entries[n].shapeClaim = false := by
  unfold nextExpiry
  split
  · next n h =>
    have hn := List.find?_some h
    simp only [reduceCtorEq, false_iff]
    intro hall
    rw [(hall n).1, (hall n).2] at hn
    exact absurd hn Bool.false_ne_true
  · next h =>
    rw [List.find?_eq_none] at h
    exact iff_of_true rfl fun n => by simpa only [Bool.not_eq_true, Bool.or_eq_false_iff] using h n (List.mem_finRange n)

/-- Whether the engine is to serve a table command: it has taken the claim, and the command is PENDING. -/
theorem tableReady_iff {c : Command} {s : State} :
    tableReady c s = true ↔ s.engine = .taken .table ∧ s.cmd.state = .pending ∧ s.cmd.op = encodeOpcode c := by
  rw [tableReady, Bool.and_eq_true, ready_iff, beq_iff_eq]

/-- The first index of which `p` holds, as `find?` gives it. -/
theorem find_finRange_eq_some {k : Nat} {p : Fin k → Bool} {n : Fin k} :
    (List.finRange k).find? p = some n ↔ p n = true ∧ ∀ m : Fin k, m < n → p m = false := by
  constructor
  · intro h
    refine ⟨List.find?_some h, fun m hm => ?_⟩
    obtain ⟨_, as, bs, hab, has⟩ := List.find?_eq_some_iff_append.mp h
    have hsorted : (as ++ n :: bs).Pairwise (· < ·) := hab ▸ List.pairwise_lt_finRange k
    have hmem : m ∈ as ++ n :: bs := hab ▸ List.mem_finRange m
    rcases List.mem_append.mp hmem with ha | hb
    · simpa using has m ha
    · rcases List.mem_cons.mp hb with rfl | hb
      · exact absurd hm (lt_irrefl _)
      · have := (List.pairwise_cons.mp (List.pairwise_append.mp hsorted).2.1).1 m hb
        exact absurd hm (lt_asymm this)
  · rintro ⟨hn, hlt⟩
    cases h : (List.finRange k).find? p with
    | none => exact absurd hn (List.find?_eq_none.mp h n (List.mem_finRange n))
    | some m =>
      obtain ⟨_, as, bs, hab, has⟩ := List.find?_eq_some_iff_append.mp h
      have hm := List.find?_some h
      rcases lt_trichotomy m n with hmn | rfl | hmn
      · simp [hlt m hmn] at hm
      · rfl
      · have hsorted : (as ++ m :: bs).Pairwise (· < ·) := hab ▸ List.pairwise_lt_finRange k
        have hmem : n ∈ as ++ m :: bs := hab ▸ List.mem_finRange n
        rcases List.mem_append.mp hmem with ha | hb
        · simpa [hn] using has n ha
        · rcases List.mem_cons.mp hb with rfl | hb
          · rfl
          · have := (List.pairwise_cons.mp (List.pairwise_append.mp hsorted).2.1).1 n hb
            exact absurd hmn (lt_asymm this)

/-- The expiry the engine takes next (R35): the first entry with a claim, its qualification claim before its shaping
claim. -/
theorem nextExpiry_eq_some {s : State} {n : Fin 32} {k : TimerKind} :
    nextExpiry s = some (n, k) ↔
      (s.entries[n].qualClaim || s.entries[n].shapeClaim) = true
        ∧ (∀ m : Fin 32, m < n → (s.entries[m].qualClaim || s.entries[m].shapeClaim) = false)
        ∧ k = if s.entries[n].qualClaim then .qualification else .shaping := by
  unfold nextExpiry
  split
  · next m h =>
    rw [find_finRange_eq_some] at h
    constructor
    · rintro e
      simp only [Option.some.injEq, Prod.mk.injEq] at e
      obtain ⟨rfl, rfl⟩ := e
      exact ⟨h.1, h.2, rfl⟩
    · rintro ⟨h1, h2, rfl⟩
      have hmn : m = n := by
        rcases lt_trichotomy m n with hlt | rfl | hlt
        · exact absurd h.1 (by rw [h2 m hlt]; exact Bool.false_ne_true)
        · rfl
        · exact absurd h1 (by rw [h.2 n hlt]; exact Bool.false_ne_true)
      rw [hmn]
  · next h =>
    simp only [reduceCtorEq, false_iff]
    rintro ⟨h1, -, -⟩
    exact absurd h1 (List.find?_eq_none.mp h n (List.mem_finRange n))

/-! ## A command that waits with the channel unit -/

/-- What the channel unit does with the command that waits there for channel `c` (R120, R138 to R140): there is none, and
nothing happens; or it is served, which may store a configuration of `c` or an image, and completes. -/
theorem takeChannelCommand_cases (c : Fin 16) (s : State) :
    takeChannelCommand c s = s
      ∨ channelArg s = some c ∧ (ready .readChannel s = true ∨ ready .writeChannel s = true)
        ∧ ∃ (r : Result) (cfg : ChannelConfig) (b : Vector Byte 32),
          takeChannelCommand c s = complete r { modChannel c (fun ch => { ch with cfg := cfg }) s with staging := b } := by
  have same : modChannel c (fun ch => { ch with cfg := s.channels[c].cfg }) s = s :=
    congrArg (fun v => { s with channels := v }) (Vector.set_getElem_self ..)
  have done : ∀ r : Result, ∃ (r' : Result) (cfg : ChannelConfig) (b : Vector Byte 32),
      complete r s = complete r' { modChannel c (fun ch => { ch with cfg := cfg }) s with staging := b } :=
    fun r => ⟨r, s.channels[c].cfg, s.staging, by rw [same]⟩
  unfold takeChannelCommand
  split
  · exact .inl rfl
  · next ha =>
    replace ha : channelArg s = some c := by simpa using ha
    split
    · next hr =>
      refine .inr ⟨ha, .inl hr, ?_⟩
      simp only [serveReadChannel, ha]
      exact ⟨.ok, s.channels[c].cfg, _, by rw [same]⟩
    · split
      · next hw =>
        refine .inr ⟨ha, .inr hw, ?_⟩
        simp only [serveWriteChannel, ha]
        split
        · exact done _
        · split
          · exact done _
          · exact ⟨.ok, _, s.staging, rfl⟩
      · exact .inl rfl

/-- A command taken for channel `c` changes no runtime field, and no other channel. -/
theorem takeChannelCommand_channels (c d : Fin 16) (s : State) :
    ∃ cfg : ChannelConfig, (takeChannelCommand c s).channels[d] = { s.channels[d] with cfg := cfg }
      ∧ (d ≠ c → cfg = s.channels[d].cfg) := by
  rcases takeChannelCommand_cases c s with h | ⟨-, -, r, cfg, b, h⟩ <;> rw [h]
  · exact ⟨_, rfl, fun _ => rfl⟩
  · rw [complete_channels]
    by_cases hd : d = c
    · subst hd
      exact ⟨cfg, by simp, fun hne => absurd rfl hne⟩
    · exact ⟨_, by simp [get_set_ne _ _ hd], fun _ => rfl⟩

/-- It reaches the channels, the staging area, the command unit and the CMD request, and nothing else. -/
theorem takeChannelCommand_frame (c : Fin 16) (s : State) :
    takeChannelCommand c s = { s with
      channels := (takeChannelCommand c s).channels, cmd := (takeChannelCommand c s).cmd,
      staging := (takeChannelCommand c s).staging, intr := (takeChannelCommand c s).intr } := by
  rcases takeChannelCommand_cases c s with h | ⟨-, -, r, cfg, b, h⟩ <;> rw [h]
  rfl

/-! ## The engine's choice -/

/-- The item the engine takes next (R36): the first channel above the pointer whose slot holds one, else the first from
0. -/
theorem nextChannel_eq_some {s : State} {c : Fin 16} (h : nextChannel s = some c) :
    s.channels[c].slot.isSome = true
      ∧ ((s.pointer < c ∧ ∀ d : Fin 16, s.pointer < d → d < c → s.channels[d].slot = none)
        ∨ (∀ d : Fin 16, s.pointer < d → s.channels[d].slot = none) ∧ ∀ d : Fin 16, d < c → s.channels[d].slot = none) := by
  unfold nextChannel at h
  split at h
  · next d hd =>
    cases h
    rw [find_finRange_eq_some, Bool.and_eq_true, decide_eq_true_iff] at hd
    refine ⟨hd.1.2, .inl ⟨hd.1.1, fun d hp hc => ?_⟩⟩
    simpa [hp] using hd.2 d hc
  · next hn =>
    rw [find_finRange_eq_some] at h
    refine ⟨h.1, .inr ⟨fun d hp => ?_, fun d hc => by simpa using h.2 d hc⟩⟩
    simpa [hp] using List.find?_eq_none.mp hn d (List.mem_finRange d)

/-- No channel item waits exactly when no slot holds one. -/
theorem nextChannel_eq_none {s : State} : nextChannel s = none ↔ ∀ c : Fin 16, s.channels[c].slot = none := by
  constructor
  · intro h c
    unfold nextChannel at h
    split at h
    · cases h
    · simpa using List.find?_eq_none.mp h c (List.mem_finRange c)
  · intro h
    cases hc : nextChannel s with
    | none => rfl
    | some c => have := (nextChannel_eq_some hc).1; rw [h c] at this; cases this

/-- What the choice can do (R34 to R36): nothing where the engine is busy, or where no claim waits; else it takes the
expiry or the table command that goes first, else the item of the channel that goes first. -/
theorem chooseWork_cases (s : State) :
    (s.engine ≠ .free ∧ chooseWork s = s)
      ∨ (s.engine = .free ∧ nextClaim s = none ∧ nextChannel s = none ∧ chooseWork s = s)
      ∨ (∃ c : Claim, s.engine = .free ∧ nextClaim s = some c ∧ chooseWork s = takeClaim c s)
      ∨ ∃ (c : Fin 16) (item : Item), s.engine = .free ∧ nextClaim s = none ∧ nextChannel s = some c
          ∧ s.channels[c].slot = some item ∧ chooseWork s = takeItem c item s := by
  unfold chooseWork takeNextItem
  cases he : s.engine with
  | free =>
    right
    cases hc : nextClaim s with
    | some c => exact .inr (.inl ⟨c, rfl, rfl, rfl⟩)
    | none =>
      cases hn : nextChannel s with
      | none => exact .inl ⟨rfl, rfl, rfl, by simp only⟩
      | some c =>
        cases hs : s.channels[c].slot with
        | none => have := (nextChannel_eq_some hn).1; rw [hs] at this; cases this
        | some item => exact .inr (.inr ⟨c, item, rfl, rfl, rfl, hs, by simp only [hs]⟩)
  | taken _ | settling _ _ | handling _ _ _ | ending | releasing _ _ | restarting _ _ _ _ _ => exact .inl ⟨nofun, rfl⟩

/-- The choice reaches the engine's place, the number of its work item, the pointer and the slot of the item taken, and
what a command that waits for the channel reaches, and nothing else. -/
theorem chooseWork_frame (s : State) :
    chooseWork s = { s with
      engine := (chooseWork s).engine, workItem := (chooseWork s).workItem, pointer := (chooseWork s).pointer,
      channels := (chooseWork s).channels, cmd := (chooseWork s).cmd, staging := (chooseWork s).staging,
      intr := (chooseWork s).intr } := by
  rcases chooseWork_cases s with ⟨-, h⟩ | ⟨-, -, -, h⟩ | ⟨c, -, -, h⟩ | ⟨c, item, -, -, -, -, h⟩ <;> rw [h]
  · rfl
  · rw [takeItem, takeChannelCommand_frame c s]
    rfl

/-- The choice empties the slot of the item it takes and changes no other field of a channel but the configuration that a
waiting WRITE_CHANNEL stores. -/
theorem chooseWork_channels (s : State) (d : Fin 16) :
    ∃ cfg : ChannelConfig, (chooseWork s).channels[d] = { s.channels[d] with cfg := cfg }
      ∨ (chooseWork s).channels[d] = { s.channels[d] with cfg := cfg, slot := none } := by
  have same : ∃ cfg : ChannelConfig, s.channels[d] = { s.channels[d] with cfg := cfg }
      ∨ s.channels[d] = { s.channels[d] with cfg := cfg, slot := none } := ⟨_, .inl rfl⟩
  rcases chooseWork_cases s with ⟨-, h⟩ | ⟨-, -, -, h⟩ | ⟨c, -, -, h⟩ | ⟨c, item, -, -, -, -, h⟩ <;> rw [h]
  · exact same
  · exact same
  · exact same
  · obtain ⟨cfg, e, -⟩ := takeChannelCommand_channels c d s
    refine ⟨cfg, ?_⟩
    simp only [takeItem, modChannel_channels]
    by_cases hd : d = c
    · subst hd
      right
      rw [get_set, if_pos rfl, e]
    · left
      rw [get_set_ne _ _ hd, e]

/-- What the engine does when its work item ends (R34, R35): it comes free, and chooses. -/
theorem comeFree_frame (s : State) :
    comeFree s = { s with
      engine := (comeFree s).engine, workItem := (comeFree s).workItem, pointer := (comeFree s).pointer,
      channels := (comeFree s).channels, cmd := (comeFree s).cmd, staging := (comeFree s).staging,
      intr := (comeFree s).intr } := by
  unfold comeFree
  rw [chooseWork_frame]

@[simp] theorem chooseWork_pending (s : State) : (chooseWork s).pending = s.pending := by
  rw [chooseWork_frame]
@[simp] theorem chooseWork_inReset (s : State) : (chooseWork s).inReset = s.inReset := by
  rw [chooseWork_frame]
@[simp] theorem chooseWork_sfrm (s : State) : (chooseWork s).sfrm = s.sfrm := by
  rw [chooseWork_frame]
@[simp] theorem chooseWork_shutoff (s : State) : (chooseWork s).shutoff = s.shutoff := by
  rw [chooseWork_frame]
@[simp] theorem chooseWork_entries (s : State) : (chooseWork s).entries = s.entries := by
  rw [chooseWork_frame]
@[simp] theorem chooseWork_lines (s : State) : (chooseWork s).lines = s.lines := by
  rw [chooseWork_frame]
@[simp] theorem chooseWork_exclusive (s : State) : (chooseWork s).exclusive = s.exclusive := by
  rw [chooseWork_frame]
@[simp] theorem chooseWork_oe (s : State) : (chooseWork s).oe = s.oe := by
  rw [chooseWork_frame]
@[simp] theorem chooseWork_queue (s : State) : (chooseWork s).queue = s.queue := by
  rw [chooseWork_frame]
@[simp] theorem chooseWork_waiting (s : State) : (chooseWork s).waiting = s.waiting := by
  rw [chooseWork_frame]
@[simp] theorem chooseWork_accs (s : State) : (chooseWork s).accs = s.accs := by
  rw [chooseWork_frame]
@[simp] theorem chooseWork_captures (s : State) : (chooseWork s).captures = s.captures := by
  rw [chooseWork_frame]
@[simp] theorem chooseWork_port (s : State) : (chooseWork s).port = s.port := by
  rw [chooseWork_frame]
@[simp] theorem chooseWork_inj (s : State) : (chooseWork s).inj = s.inj := by
  rw [chooseWork_frame]
@[simp] theorem chooseWork_timebase (s : State) : (chooseWork s).timebase = s.timebase := by
  rw [chooseWork_frame]
@[simp] theorem chooseWork_due (s : State) : (chooseWork s).due = s.due := by
  rw [chooseWork_frame]
@[simp] theorem chooseWork_latches (s : State) : (chooseWork s).latches = s.latches := by
  rw [chooseWork_frame]
@[simp] theorem chooseWork_dataOut (s : State) : (chooseWork s).dataOut = s.dataOut := by
  rw [chooseWork_frame]
@[simp] theorem chooseWork_freeCount (s : State) : (chooseWork s).freeCount = s.freeCount := by
  rw [chooseWork_frame]

@[simp] theorem comeFree_pending (s : State) : (comeFree s).pending = s.pending := by
  rw [comeFree_frame]
@[simp] theorem comeFree_inReset (s : State) : (comeFree s).inReset = s.inReset := by
  rw [comeFree_frame]
@[simp] theorem comeFree_sfrm (s : State) : (comeFree s).sfrm = s.sfrm := by
  rw [comeFree_frame]
@[simp] theorem comeFree_shutoff (s : State) : (comeFree s).shutoff = s.shutoff := by
  rw [comeFree_frame]
@[simp] theorem comeFree_entries (s : State) : (comeFree s).entries = s.entries := by
  rw [comeFree_frame]
@[simp] theorem comeFree_lines (s : State) : (comeFree s).lines = s.lines := by
  rw [comeFree_frame]
@[simp] theorem comeFree_exclusive (s : State) : (comeFree s).exclusive = s.exclusive := by
  rw [comeFree_frame]
@[simp] theorem comeFree_oe (s : State) : (comeFree s).oe = s.oe := by
  rw [comeFree_frame]
@[simp] theorem comeFree_queue (s : State) : (comeFree s).queue = s.queue := by
  rw [comeFree_frame]
@[simp] theorem comeFree_waiting (s : State) : (comeFree s).waiting = s.waiting := by
  rw [comeFree_frame]
@[simp] theorem comeFree_accs (s : State) : (comeFree s).accs = s.accs := by
  rw [comeFree_frame]
@[simp] theorem comeFree_captures (s : State) : (comeFree s).captures = s.captures := by
  rw [comeFree_frame]
@[simp] theorem comeFree_port (s : State) : (comeFree s).port = s.port := by
  rw [comeFree_frame]
@[simp] theorem comeFree_inj (s : State) : (comeFree s).inj = s.inj := by
  rw [comeFree_frame]
@[simp] theorem comeFree_timebase (s : State) : (comeFree s).timebase = s.timebase := by
  rw [comeFree_frame]
@[simp] theorem comeFree_due (s : State) : (comeFree s).due = s.due := by
  rw [comeFree_frame]
@[simp] theorem comeFree_latches (s : State) : (comeFree s).latches = s.latches := by
  rw [comeFree_frame]
@[simp] theorem comeFree_dataOut (s : State) : (comeFree s).dataOut = s.dataOut := by
  rw [comeFree_frame]
@[simp] theorem comeFree_freeCount (s : State) : (comeFree s).freeCount = s.freeCount := by
  rw [comeFree_frame]

/-! ## Timers -/

/-- A tick on a timer of the timer bank (R41): nothing but a running count moves, and a count of 1 makes the timer
expired. -/
theorem Timer.tick_cases (t : Timer) :
    (t.expiring = true ∧ t.tick = .expired)
      ∨ (∃ c : Half, t = .running c ∧ 1 < c.toNat ∧ t.tick = .running (c - 1))
      ∨ ((∀ c : Half, t ≠ .running c) ∧ t.tick = t) := by
  cases t with
  | running c =>
    by_cases h : c.toNat ≤ 1
    · exact .inl ⟨by simp [expiring, h], by simp [tick, h]⟩
    · exact .inr (.inl ⟨c, rfl, by omega, by simp [tick, h]⟩)
  | unloaded | expired => exact .inr (.inr ⟨nofun, rfl⟩)

/-- The timer bank takes a tick when one has reached it (R159): its 64 timers and its due tick change, and a free engine
takes the claim that goes first. -/
theorem bankTick_cases (s : State) :
    (s.due.timerBank = 0 ∧ bankTick s = s) ∨ (s.due.timerBank ≠ 0 ∧ bankTick s = chooseWork (bankTimers s)) := by
  unfold bankTick
  by_cases h : s.due.timerBank = 0
  · exact .inl ⟨h, if_pos h⟩
  · exact .inr ⟨h, if_neg h⟩

/-- A tick of the timer bank changes the timers and its own due tick, and nothing else (R159). -/
theorem bankTimers_frame (s : State) :
    bankTimers s = { s with entries := (bankTimers s).entries, due := { s.due with timerBank := s.due.timerBank - 1 } } :=
  rfl


/-! ## The capture unit -/

/-- READ_ACC or WRITE_ACC is taken exactly when it is PENDING and is the event that has waited longest (R110). -/
theorem takeAccCommand_eq_some {c : Command} {s t : State} :
    takeAccCommand c s = some t ↔
      ready c s = true ∧ ∃ rest : List CaptureEvent, s.captures = .command :: rest ∧ t = { s with captures := rest } := by
  unfold takeAccCommand
  split
  · next rest h =>
    cases hr : ready c s
    · simp
    · simp only [if_true, Option.some.injEq, true_and]
      constructor
      · rintro rfl
        exact ⟨rest, h, rfl⟩
      · rintro ⟨rest', h', rfl⟩
        rw [h] at h'
        cases h'
        rfl
  · next h => simp [h]
  · next h => simp [h]

/-! ## The sample port -/

/-- CLEAR_PORT_COUNTS is taken exactly when it waits with the port (R144, R150). -/
theorem takePortCommand_cases (s : State) :
    (ready .clearPortCounts s = false ∧ takePortCommand s = s)
      ∨ (ready .clearPortCounts s = true ∧ takePortCommand s = complete .ok (modPort Port.countsCleared s)) := by
  unfold takePortCommand
  cases h : ready .clearPortCounts s
  · exact .inl ⟨rfl, rfl⟩
  · exact .inr ⟨rfl, rfl⟩

/-! ## Loading and cancelling -/

/-- Loading and being loaded: the count loaded is the count that remains. -/
@[simp] theorem Entry.loadQual_qual (d : Half) (e : Entry) : (e.loadQual d).qual = .running d := rfl
@[simp] theorem Entry.cancelQual_qual (e : Entry) : e.cancelQual.qual = .unloaded := rfl
@[simp] theorem Entry.loadShape_shape (d : Half) (e : Entry) : (e.loadShape d).shape = .running d := rfl
@[simp] theorem Entry.cancelShape_shape (e : Entry) : e.cancelShape.shape = .unloaded := rfl

/-! ## Freshness -/

/-- A freshness expiry changes its own channel and what is handed over, and nothing else. -/
theorem freshnessExpiry_frame (c : Fin 16) (s : State) :
    freshnessExpiry c s =
      { s with channels := s.channels.set c s.channels[c].expired, waiting := (freshnessExpiry c s).waiting } := by
  rw [freshnessExpiry, handOverIf_eq]
  rfl

/-- The channel unit takes a tick for a channel (R131, R132): none has reached it; or the tick brings the freshness timer
to zero, which is the expiry, after the command that waits for the channel; or the count goes down. -/
theorem channelTick_cases (c : Fin 16) (s : State) :
    (s.due.channels[c] = 0 ∧ channelTick c s = s)
      ∨ (s.due.channels[c] ≠ 0 ∧ s.channels[c].fresh.expiring = true
          ∧ channelTick c s = freshnessExpiry c (takeChannelCommand c
            { s with due := { s.due with channels := s.due.channels.set c (s.due.channels[c] - 1) } }))
      ∨ (s.due.channels[c] ≠ 0 ∧ s.channels[c].fresh.expiring = false ∧ channelTick c s =
          modChannel c (fun ch => { ch with fresh := ch.fresh.tick })
            { s with due := { s.due with channels := s.due.channels.set c (s.due.channels[c] - 1) } }) := by
  unfold channelTick
  by_cases h : s.due.channels[c] = 0
  · exact .inl ⟨h, if_pos h⟩
  · right
    dsimp only
    rw [if_neg h]
    cases he : s.channels[c].fresh.expiring
    · exact .inr ⟨h, rfl, if_neg Bool.false_ne_true⟩
    · exact .inl ⟨h, rfl, if_pos rfl⟩

/-! ## Host cycles -/

/-- A write cycle outside power-on reset: D7 to D0 float and the owner takes the write. In reset it is no event. -/
theorem hostWrite_eq (f : State → State) (s : State) :
    hostWrite f s = if s.inReset = true then s else f { s with dataOut := none } := rfl

/-- A read cycle outside power-on reset: the latch is loaded and the byte driven. In reset it is no event. -/
theorem hostRead_eq (b : Byte) (f : State → State) (s : State) :
    hostRead b f s = if s.inReset = true then s else { f s with dataOut := some b } := rfl

/-! ## The queue -/

/-- No victim (R69): no record has a lower severity. -/
theorem evictNewest_eq_none {sev : BitVec 2} {rs : List Record} :
    evictNewest sev rs = none ↔ ∀ r ∈ rs, ¬ r.body.severity < sev := by
  induction rs with
  | nil => simp [evictNewest]
  | cons x xs ih =>
    rw [evictNewest, List.forall_mem_cons]
    cases hx : evictNewest sev xs with
    | some p => exact ⟨nofun, fun h => by rw [ih.mpr h.2] at hx; cases hx⟩
    | none =>
      by_cases hlt : x.body.severity < sev
      · rw [if_pos hlt]; exact ⟨nofun, fun h => absurd hlt h.1⟩
      · rw [if_neg hlt]; exact ⟨fun _ => ⟨hlt, ih.mp hx⟩, fun _ => rfl⟩

/-- The victim of an eviction (R68): the newest record of a lower severity; the records younger than it have none. -/
theorem evictNewest_eq_some {sev : BitVec 2} {rs : List Record} {v : Record} {rest : List Record} :
    evictNewest sev rs = some (v, rest) ↔
      ∃ a b : List Record, rs = a ++ v :: b ∧ rest = a ++ b ∧ v.body.severity < sev
        ∧ ∀ r ∈ b, ¬ r.body.severity < sev := by
  induction rs generalizing v rest with
  | nil => simp [evictNewest]
  | cons r rs ih =>
    rw [evictNewest]
    cases h : evictNewest sev rs with
    | some p =>
      obtain ⟨w, tail⟩ := p
      constructor
      · rintro e
        cases e
        obtain ⟨a, b, rfl, rfl, hw, hb⟩ := ih.mp h
        exact ⟨r :: a, b, rfl, rfl, hw, hb⟩
      · rintro ⟨a, b, hab, rfl, hv, hb⟩
        cases a with
        | nil =>
          obtain ⟨rfl, rfl⟩ := List.cons.inj hab
          rw [evictNewest_eq_none.mpr hb] at h
          cases h
        | cons x a =>
          obtain ⟨rfl, rfl⟩ := List.cons.inj hab
          have e := ih.mpr ⟨a, b, rfl, rfl, hv, hb⟩
          rw [h] at e
          cases e
          rfl
    | none =>
      have hrs := evictNewest_eq_none.mp h
      constructor
      · intro e
        by_cases hlt : r.body.severity < sev
        · simp only [if_pos hlt, Option.some.injEq, Prod.mk.injEq] at e
          obtain ⟨rfl, rfl⟩ := e
          exact ⟨[], rs, rfl, rfl, hlt, hrs⟩
        · simp only [if_neg hlt, reduceCtorEq] at e
      · rintro ⟨a, b, hab, rfl, hv, hb⟩
        cases a with
        | nil =>
          obtain ⟨rfl, rfl⟩ := List.cons.inj hab
          exact if_pos hv
        | cons x a =>
          obtain ⟨rfl, rfl⟩ := List.cons.inj hab
          exact absurd hv (hrs v (by simp))

/-- What the queue does with a submission (Table 4-4): admits it, evicts a victim that is not the head, or drops it. -/
theorem takeRecord_cases (b : RecordBody) (s : State) :
    (s.queue.records.length < 64 ∧ takeRecord b s = admitWithRoom b s)
      ∨ (∃ (head victim : Record) (older younger : List Record),
          s.queue.records = head :: (older ++ victim :: younger) ∧ 64 ≤ s.queue.records.length
            ∧ victim.body.severity < b.severity ∧ (∀ r ∈ younger, ¬ r.body.severity < b.severity)
            ∧ takeRecord b s = admitByEviction b victim (head :: (older ++ younger)) s)
      ∨ (64 ≤ s.queue.records.length ∧ (∀ r ∈ s.queue.records.tail, ¬ r.body.severity < b.severity)
          ∧ takeRecord b s = dropRecord b s) := by
  unfold takeRecord
  by_cases h : s.queue.records.length < 64
  · exact .inl ⟨h, if_pos h⟩
  · right
    rw [if_neg h]
    cases hq : s.queue.records with
    | nil => rw [hq] at h; exact absurd (by decide) h
    | cons head tail =>
      rw [hq] at h
      cases hv : evictNewest b.severity tail with
      | none => exact .inr ⟨by omega, evictNewest_eq_none.mp hv, by simp [hv]⟩
      | some p =>
        obtain ⟨victim, rest⟩ := p
        obtain ⟨older, younger, rfl, rfl, hlt, hy⟩ := evictNewest_eq_some.mp hv
        exact .inl ⟨head, victim, older, younger, rfl, by omega, hlt, hy, by simp [hv]⟩

/-- A submission changes the queue and sets flags, and nothing else. -/
theorem takeRecord_frame (b : RecordBody) (s : State) :
    ∃ (q : EventQueue) (f : BitVec 7),
      takeRecord b s = { s with queue := q, intr := { s.intr with flags := s.intr.flags ||| f } } := by
  rcases takeRecord_cases b s with ⟨-, h⟩ | ⟨_, _, _, _, -, -, -, -, h⟩ | ⟨-, -, h⟩ <;> rw [h]
  · exact ⟨_, _, by simp only [admitWithRoom, requestSevere, requestIf_eq, BitVec.or_assoc]; rfl⟩
  · exact ⟨_, _, by simp only [admitByEviction, requestSevere, requestIf_eq, request, BitVec.or_assoc]; rfl⟩
  · exact ⟨_, _, rfl⟩

/-- The queue takes every submission that waits (R65): the queue and flags change, nothing waits any more, and nothing
else changes. -/
theorem takeWaiting_frame (s : State) :
    ∃ (q : EventQueue) (f : BitVec 7),
      takeWaiting s = { s with queue := q, waiting := [], intr := { s.intr with flags := s.intr.flags ||| f } } := by
  have fold : ∀ (ws : List Waiting) (u : State), ∃ (q : EventQueue) (f : BitVec 7),
      ws.foldl (fun u w => takeRecord w.body u) u =
        { u with queue := q, intr := { u.intr with flags := u.intr.flags ||| f } } := by
    intro ws
    induction ws with
    | nil => exact fun u => ⟨u.queue, 0, by simp⟩
    | cons w ws ih =>
      intro u
      obtain ⟨q, f, h⟩ := takeRecord_frame w.body u
      obtain ⟨q', f', h'⟩ := ih (takeRecord w.body u)
      exact ⟨q', f ||| f', by rw [List.foldl_cons, h', h, BitVec.or_assoc]⟩
  exact fold s.waiting { s with waiting := [] }

/-- The submission of `who` the queue can take next (R65): its oldest, and everything that waits before it is another's
and may be passed. -/
theorem nextSubmission_eq_some {who : Submitter} {s : State} {w : Waiting} (h : nextSubmission who s = some w) :
    ∃ before after : List Waiting, s.waiting = before ++ w :: after ∧ w.submitter = who
      ∧ (∀ v ∈ before, v.submitter ≠ who ∧ w.mayPass v = true)
      ∧ s.waiting.eraseP (fun w => w.submitter == who) = before ++ after := by
  unfold nextSubmission at h
  split at h
  · cases h
  · next x hx =>
    split at h
    · next hall =>
      cases h
      obtain ⟨hw, before, after, hab, hb⟩ := List.find?_eq_some_iff_append.mp hx
      have htake : s.waiting.takeWhile (fun v => v.submitter != who) = before := by
        rw [hab, List.takeWhile_append_of_pos (by simpa [bne] using hb)]
        simp [bne, hw]
      rw [htake, List.all_eq_true] at hall
      refine ⟨before, after, hab, by simpa using hw, fun v hv => ⟨by simpa using hb v hv, hall v hv⟩, ?_⟩
      rw [hab, List.eraseP_append_right _ (by simpa using hb), List.eraseP_cons, hw, cond_true]
    · cases h

end Sys2Proof.Machine
end

