-- ==== Sys2Proof/Laws/Engine.lean ====
section
/-! SUPPORT. Frames: what the operations of the output unit, of the engine and of the channel unit can change, and that
nothing else does; what the output unit does with the command that waits there. -/

namespace Sys2Proof.Machine

/-! ## The output unit -/

/-- `t` is `s` but for its lines and what has been handed over to the queue. -/
abbrev LinesOnly (s t : State) : Prop :=
  t = { s with lines := t.lines, waiting := t.waiting }

theorem LinesOnly.refl (s : State) : LinesOnly s s := rfl

theorem LinesOnly.trans {s t u : State} (h : LinesOnly s t) (k : LinesOnly t u) : LinesOnly s u := by
  refine Eq.trans k ?_
  rw [h]

theorem takeOver_frame (l : Fin 16) (s : State) : LinesOnly s (takeOver l s) := rfl

theorem raiseWant_frame (i : Bool) (l : Fin 16) (s : State) : LinesOnly s (raiseWant i l s) := by
  unfold raiseWant
  split
  · rw [handOverIf_eq]; rfl
  · rfl

theorem dropWant_frame (l : Fin 16) (s : State) : LinesOnly s (dropWant l s) := by
  unfold dropWant
  split
  · exact LinesOnly.trans rfl (takeOver_frame _ _)
  · rfl

/-- A change of want (R92 to R97) reaches the lines and a CONFLICT record, and nothing else. -/
theorem updateWant_frame (i : Bool) (l : Fin 16) (s : State) : LinesOnly s (updateWant i l s) := by
  unfold updateWant
  split
  · rfl
  · split
    · exact raiseWant_frame i l s
    · exact dropWant_frame l s

/-- A contribution change carried through (R84) reaches the lines and a CONFLICT record, and nothing else. -/
theorem setContrib_frame (l : Fin 16) (n : Fin 32) (b : Bool) (s : State) : LinesOnly s (setContrib l n b s) :=
  LinesOnly.trans rfl (updateWant_frame _ l _)

/-- What can become of one line of `s` when want is brought up to date: only want, hold, blocked and pin. -/
theorem updateWant_lines (i : Bool) (l k : Fin 16) (s : State) :
    ∃ want hold blocked pin : Bool, (updateWant i l s).lines[k] =
      { s.lines[k] with want := want, hold := hold, blocked := blocked, pinActive := pin } := by
  have same : ∃ want hold blocked pin : Bool, s.lines[k] =
      { s.lines[k] with want := want, hold := hold, blocked := blocked, pinActive := pin } := ⟨_, _, _, _, rfl⟩
  have modded : ∀ (f : Line → Line) (u : State),
      (∃ want hold blocked pin : Bool, u.lines[k] =
        { s.lines[k] with want := want, hold := hold, blocked := blocked, pinActive := pin }) →
      (∀ ln : Line, ∃ want hold blocked pin : Bool, f ln =
        { ln with want := want, hold := hold, blocked := blocked, pinActive := pin }) → ∀ j : Fin 16,
      ∃ want hold blocked pin : Bool, (modLine j f u).lines[k] =
        { s.lines[k] with want := want, hold := hold, blocked := blocked, pinActive := pin } := by
    intro f u ⟨w, h, b, p, hu⟩ hf j
    rw [modLine_lines, get_set]
    split
    · next e =>
      subst e
      obtain ⟨w', h', b', p', hf'⟩ := hf u.lines[k]
      rw [hf', hu]
      exact ⟨_, _, _, _, rfl⟩
    · exact ⟨w, h, b, p, hu⟩
  unfold updateWant
  split
  · exact same
  · split
    · unfold raiseWant
      split
      · rw [handOverIf_eq]
        exact modded _ s same (fun ln => ⟨_, _, _, _, rfl⟩) l
      · exact modded _ s same (fun ln => ⟨_, _, _, _, rfl⟩) l
    · have first := modded (fun ln => Line.withPin s.oe { ln with want := false, hold := false, blocked := false }) s
        same (fun ln => ⟨_, _, _, _, rfl⟩) l
      unfold dropWant
      split
      · refine modded _ _ first (fun ln => ?_) (partner l)
        by_cases h : ln.blocked = true
        · exact ⟨_, _, _, _, if_pos h⟩
        · exact ⟨_, _, _, _, if_neg h⟩
      · exact first

/-- A contribution change touches no configuration, no override and no cut (R84, R102). -/
theorem setContrib_keeps (l k : Fin 16) (n : Fin 32) (b : Bool) (s : State) :
    ((setContrib l n b s).lines[k].polarity = s.lines[k].polarity
        ∧ (setContrib l n b s).lines[k].cutMember = s.lines[k].cutMember
        ∧ (setContrib l n b s).lines[k].conflictEvent = s.lines[k].conflictEvent
        ∧ (setContrib l n b s).lines[k].conflictSeverity = s.lines[k].conflictSeverity)
      ∧ (setContrib l n b s).lines[k].override = s.lines[k].override
      ∧ (setContrib l n b s).lines[k].cut = s.lines[k].cut
      ∧ (setContrib l n b s).lines[k].contrib = if k = l then s.lines[k].contrib.set n b else s.lines[k].contrib := by
  obtain ⟨w, h, bl, p, e⟩ := updateWant_lines true l k (modLine l (Line.withContrib n b) s)
  rw [setContrib, e, modLine_lines, get_set]
  split
  · next hk => subst hk; exact ⟨⟨rfl, rfl, rfl, rfl⟩, rfl, rfl, rfl⟩
  · exact ⟨⟨rfl, rfl, rfl, rfl⟩, rfl, rfl, rfl⟩

/-- What the output unit does with the line command that waits there (R84): there is none, and nothing happens; or it is
served, which reaches the lines, the exclusive flags, a CONFLICT record and an image, and completes. -/
theorem takeLineCommand_cases (s : State) :
    takeLineCommand s = s
      ∨ s.cmd.state = .pending ∧ ∃ (r : Result) (lines : Vector Line 16) (exclusive : Vector Bool 8)
          (waiting : List Waiting) (b : Vector Byte 32),
        takeLineCommand s =
          complete r { s with lines := lines, exclusive := exclusive, waiting := waiting, staging := b } := by
  have done : ∀ r : Result, ∃ (r' : Result) (lines : Vector Line 16) (exclusive : Vector Bool 8)
      (waiting : List Waiting) (b : Vector Byte 32), complete r s =
        complete r' { s with lines := lines, exclusive := exclusive, waiting := waiting, staging := b } :=
    fun r => ⟨r, s.lines, s.exclusive, s.waiting, s.staging, rfl⟩
  have lined : ∀ (r : Result) (u : State), LinesOnly s u → ∃ (r' : Result) (lines : Vector Line 16)
      (exclusive : Vector Bool 8) (waiting : List Waiting) (b : Vector Byte 32), complete r u =
        complete r' { s with lines := lines, exclusive := exclusive, waiting := waiting, staging := b } :=
    fun r u h => ⟨r, u.lines, s.exclusive, u.waiting, s.staging, congrArg (complete r) h⟩
  unfold takeLineCommand
  split
  · next h =>
    refine .inr ⟨(ready_iff.mp h).1, ?_⟩
    unfold serveReadLine
    split
    · exact done _
    · exact ⟨_, s.lines, s.exclusive, s.waiting, _, rfl⟩
  split
  · next h =>
    refine .inr ⟨(ready_iff.mp h).1, ?_⟩
    unfold serveWriteLine
    dsimp only
    split
    · exact done _
    · split
      · exact done _
      · unfold storeLine
        dsimp only
        split
        · exact ⟨_, _, _, s.waiting, s.staging, rfl⟩
        · exact ⟨_, _, _, s.waiting, s.staging, rfl⟩
  split
  · next h =>
    refine .inr ⟨(ready_iff.mp h).1, ?_⟩
    unfold serveSilence
    split
    · exact done _
    · split
      · exact done _
      · exact lined _ _ (LinesOnly.trans rfl (updateWant_frame _ _ _))
  split
  · next h =>
    refine .inr ⟨(ready_iff.mp h).1, ?_⟩
    unfold serveOverride
    split
    · exact done _
    · split
      · exact done _
      · exact lined _ _ (LinesOnly.trans rfl (updateWant_frame _ _ _))
  split
  · next h =>
    refine .inr ⟨(ready_iff.mp h).1, ?_⟩
    unfold serveResume
    split
    · exact done _
    · exact ⟨_, _, s.exclusive, s.waiting, s.staging, rfl⟩
  · exact .inl rfl

/-- `t` is `s` but for what the output unit's events can reach: the lines and exclusive flags, what is handed over to the
queue, and the completion of a line command with its image. -/
abbrev OutputWork (s t : State) : Prop :=
  t = { s with
    lines := t.lines, exclusive := t.exclusive, waiting := t.waiting, cmd := t.cmd, staging := t.staging,
    intr := t.intr }

theorem takeLineCommand_work (s : State) : OutputWork s (takeLineCommand s) := by
  rcases takeLineCommand_cases s with h | ⟨-, r, lines, exclusive, waiting, b, h⟩ <;> rw [h]
  rfl

/-! ## The engine -/

/-- `t` is `s` but for entry `n`, whose configuration is kept, what the output unit's events can reach, and what has been
handed over. -/
abbrev EntryWork (n : Fin 32) (s t : State) : Prop :=
  t = { s with
      entries := t.entries, lines := t.lines, exclusive := t.exclusive, captures := t.captures, waiting := t.waiting,
      cmd := t.cmd, staging := t.staging, intr := t.intr }
    ∧ (∀ m : Fin 32, m ≠ n → t.entries[m] = s.entries[m])
    ∧ t.entries[n].cfg = s.entries[n].cfg

theorem EntryWork.refl (n : Fin 32) (s : State) : EntryWork n s s := ⟨rfl, fun _ _ => rfl, rfl⟩

theorem EntryWork.trans {n : Fin 32} {s t u : State} (h : EntryWork n s t) (k : EntryWork n t u) : EntryWork n s u :=
  ⟨k.1.trans (by rw [h.1]), fun m hm => (k.2.1 m hm).trans (h.2.1 m hm), k.2.2.trans h.2.2⟩

theorem EntryWork.ofOutput {n : Fin 32} {s t : State} (h : OutputWork s t) : EntryWork n s t := by
  have e : t.entries = s.entries := by rw [h]
  exact ⟨by rw [h], fun m _ => by rw [e], by rw [e]⟩

theorem EntryWork.ofLines {n : Fin 32} {s t : State} (h : LinesOnly s t) : EntryWork n s t :=
  .ofOutput (by rw [h])

/-- A change of entry `n` that keeps its configuration. -/
theorem modEntry_work (n : Fin 32) (f : Entry → Entry) (s : State) (h : (f s.entries[n]).cfg = s.entries[n].cfg) :
    EntryWork n s (modEntry n f s) :=
  ⟨rfl, fun m hm => by rw [modEntry_entries, get_set_ne _ _ hm], by rw [modEntry_entries, get_set, if_pos rfl]; exact h⟩

/-- The contribution step (R15), with the line command it finds with the output unit (R84). -/
theorem contributionStep_work (n : Fin 32) (dir : Direction) (s : State) : EntryWork n s (contributionStep n dir s) := by
  unfold contributionStep
  dsimp only
  split
  · exact .refl n s
  · refine EntryWork.trans (.ofOutput (takeLineCommand_work s)) ?_
    split
    · exact .ofLines (setContrib_frame _ _ _ _)
    · exact .ofLines (setContrib_frame _ _ _ _)
    · exact (modEntry_work n _ _ rfl).trans (.ofLines (setContrib_frame _ _ _ _))
    · exact .refl n _
    · exact (modEntry_work n _ _ rfl).trans (.ofLines (setContrib_frame _ _ _ _))
    · exact (modEntry_work n _ _ rfl).trans (.ofLines (setContrib_frame _ _ _ _))

theorem captureHandOver_work (n : Fin 32) (g : Edge) (s : State) : EntryWork n s (captureHandOver n g s) := by
  unfold captureHandOver
  dsimp only
  split
  · exact .refl n s
  · split
    · exact ⟨rfl, fun _ _ => rfl, rfl⟩
    · exact .refl n s

theorem recordStep_work (n : Fin 32) (g : Edge) (s : State) : EntryWork n s (recordStep n g s) := by
  rw [recordStep, handOverIf_eq]
  exact ⟨rfl, fun _ _ => rfl, rfl⟩

/-- An edge of entry `n` (R14): its own record, the lines, a capture step and records, and nothing else. -/
theorem edge_work (n : Fin 32) (g : Edge) (s : State) : EntryWork n s (edge n g s) :=
  (((modEntry_work n _ s (by cases g.dir <;> rfl)).trans (contributionStep_work n g.dir _)).trans
    (captureHandOver_work n g _)).trans (recordStep_work n g _)

theorem moveWithEdge_work (n : Fin 32) (st : EntryState) (g : Edge) (s : State) : EntryWork n s (moveWithEdge n st g s) :=
  (modEntry_work n (fun e => { e with state := st }) s rfl).trans (edge_work n g _)

/-- A transition of entry `n` (R45 to R51). -/
theorem transition_work (n : Fin 32) (active : Bool) (v : Option Half) (s : State) :
    EntryWork n s (transition n active v s) := by
  unfold transition
  dsimp only
  repeat' split
  all_goals first
    | exact .refl n s
    | exact moveWithEdge_work n _ _ s
    | exact modEntry_work n _ s rfl

/-- Entry `n` handled whole in an evaluation (R18, R28 to R33). -/
theorem handleEntry_work (n : Fin 32) (input : EvalInput) (s : State) : EntryWork n s (handleEntry n input s) := by
  unfold handleEntry
  split
  · exact (modEntry_work n _ s rfl).trans (transition_work n _ _ _)
  · unfold handleFault
    dsimp only
    split
    · exact modEntry_work n _ s rfl
    · split
      · exact modEntry_work n _ s rfl
      · exact ((modEntry_work n _ s rfl).trans (modEntry_work n _ _ rfl)).trans (transition_work n _ _ _)
      · exact ((modEntry_work n _ s rfl).trans (modEntry_work n _ _ rfl)).trans (transition_work n _ _ _)

/-- A live qualification expiry (R43). -/
theorem qualificationExpiry_work (n : Fin 32) (s : State) : EntryWork n s (qualificationExpiry n s) := by
  unfold qualificationExpiry
  dsimp only
  split
  · exact (modEntry_work n _ s rfl).trans (moveWithEdge_work n _ _ _)
  · exact (modEntry_work n _ s rfl).trans (moveWithEdge_work n _ _ _)
  all_goals exact modEntry_work n _ s rfl

/-- A live shaping expiry (R44). -/
theorem shapingExpiry_work (n : Fin 32) (s : State) : EntryWork n s (shapingExpiry n s) := by
  unfold shapingExpiry
  dsimp only
  split
  · exact (EntryWork.ofOutput (takeLineCommand_work s)).trans
      ((modEntry_work n _ _ rfl).trans (.ofLines (setContrib_frame _ _ _ _)))
  · exact (EntryWork.ofOutput (takeLineCommand_work s)).trans
      ((modEntry_work n _ _ rfl).trans (.ofLines (setContrib_frame _ _ _ _)))
  · exact modEntry_work n _ s rfl

/-- A withdrawal (R90). -/
theorem withdraw_work (n : Fin 32) (s : State) : EntryWork n s (withdraw n s) := by
  unfold withdraw
  dsimp only
  split
  · exact (modEntry_work n _ s rfl).trans (.ofLines (setContrib_frame _ _ _ _))
  · exact modEntry_work n _ s rfl

/-- A release (R55). -/
theorem releaseEntry_work (n : Fin 32) (s : State) : EntryWork n s (releaseEntry n s) :=
  moveWithEdge_work n _ _ s

/-! ## The channel unit -/

/-- `t` is `s` but for its channels and what has been handed over to the queue. -/
abbrev ChannelWork (s t : State) : Prop :=
  t = { s with channels := t.channels, waiting := t.waiting }

theorem ChannelWork.trans {s t u : State} (h : ChannelWork s t) (k : ChannelWork t u) : ChannelWork s u := by
  refine Eq.trans k ?_
  rw [h]

/-- Settling (R125 to R130) changes channels and hands records over, and nothing else. -/
theorem settle_work (c : Fin 16) (item : Item) (s : State) : ChannelWork s (settle c item s).2 := by
  unfold settle
  split
  · unfold settleSample
    dsimp only
    split <;> (rw [handOverIf_eq]; rfl)
  · rfl

/-- `t` is `s` but for what the channel unit's events can reach: the channels, what is handed over to the queue, the ticks
still to be taken, and the completion of a channel command with its image. -/
abbrev ChannelEvent (s t : State) : Prop :=
  t = { s with
    channels := t.channels, waiting := t.waiting, due := { s.due with channels := t.due.channels }, cmd := t.cmd,
    staging := t.staging, intr := t.intr }

theorem ChannelEvent.trans {s t u : State} (h : ChannelEvent s t) (k : ChannelEvent t u) : ChannelEvent s u := by
  refine Eq.trans k ?_
  rw [h]

theorem takeChannelCommand_event (c : Fin 16) (s : State) : ChannelEvent s (takeChannelCommand c s) := by
  rw [takeChannelCommand_frame c s]

/-- An arrival (R121, R122), with the command it finds for the channel. -/
theorem takeArrival_event (fromPort : Bool) (c : Fin 16) (raw : Half) (status : SampleStatus) (s : State) :
    ChannelEvent s (takeArrival fromPort c raw status s).2 := by
  unfold takeArrival
  dsimp only
  split
  · exact (takeChannelCommand_event c s).trans rfl
  · exact takeChannelCommand_event c s

/-- The channel unit takes a tick for one channel (R131, R132). -/
theorem channelTick_event (c : Fin 16) (s : State) : ChannelEvent s (channelTick c s) := by
  rcases channelTick_cases c s with ⟨-, h⟩ | ⟨-, -, h⟩ | ⟨-, -, h⟩ <;> rw [h]
  · refine ChannelEvent.trans (t := { s with
      due := { s.due with channels := s.due.channels.set c (s.due.channels[c] - 1) } }) rfl ?_
    refine (takeChannelCommand_event c _).trans ?_
    rw [freshnessExpiry, handOverIf_eq]
    rfl
  · rfl

/-- The channel unit takes a tick for every channel (R131, R159), and a free engine then chooses. -/
theorem channelTicks_eq (s : State) : ∃ t : State, ChannelEvent s t ∧ channelTicks s = chooseWork t := by
  have fold : ∀ (cs : List (Fin 16)) (u : State), ChannelEvent u (cs.foldl (fun u c => channelTick c u) u) := by
    intro cs
    induction cs with
    | nil => exact fun u => rfl
    | cons c cs ih => exact fun u => (channelTick_event c u).trans (ih _)
  exact ⟨_, fold (List.finRange 16) s, rfl⟩

/-! ## RESTART -/

/-- A part of RESTART is taken when it is its turn, and is nothing otherwise (R172). -/
theorem restartPart_cases (p : RestartPart) (s : State) :
    restartPart p s = s
      ∨ (p = .engine ∧ s.engine = .taken .table ∧ ready .restart s = true ∧ restartPart p s = restartEngine s)
      ∨ ∃ out ch port irq rec : Bool, s.engine = .restarting out ch port irq rec
        ∧ ((p = .output ∧ out = false
            ∧ restartPart p s = { restartOutputs s with engine := .restarting true ch port irq rec })
          ∨ (p = .channel ∧ ch = false
            ∧ restartPart p s = { restartChannels s with engine := .restarting out true port irq rec })
          ∨ (p = .port ∧ port = false
            ∧ restartPart p s = { modPort Port.restarted s with engine := .restarting out ch true irq rec })
          ∨ (p = .interrupt ∧ out = true ∧ ch = true ∧ port = true ∧ irq = false
            ∧ restartPart p s = { restartInterrupts s with engine := .restarting true true true true rec })
          ∨ (p = .queue ∧ out = true ∧ ch = true ∧ port = true ∧ irq = true ∧ rec = false
            ∧ restartPart p s = { restartQueue s with engine := .restarting true true true true true })
          ∨ (p = .completion ∧ out = true ∧ ch = true ∧ port = true ∧ irq = true ∧ rec = true
            ∧ restartPart p s = endService .ok s)) := by
  cases he : s.engine with
  | taken c =>
    cases c with
    | expiry n k => exact .inl (by simp only [restartPart, he])
    | table =>
      cases p with
      | engine =>
        cases hr : ready .restart s
        · exact .inl (by simp [restartPart, he, hr])
        · exact .inr (.inl ⟨rfl, rfl, rfl, by simp [restartPart, he, hr]⟩)
      | output | channel | port | interrupt | queue | completion => exact .inl (by simp [restartPart, he])
  | free | settling _ _ | handling _ _ _ | ending | releasing _ _ => exact .inl (by simp only [restartPart, he])
  | restarting out ch port irq rec =>
    cases p with
    | engine => exact .inl (by simp only [restartPart, he])
    | output =>
      cases out
      · exact .inr (.inr ⟨_, _, _, _, _, rfl, .inl ⟨rfl, rfl, by simp [restartPart, he]⟩⟩)
      · exact .inl (by simp [restartPart, he])
    | channel =>
      cases ch
      · exact .inr (.inr ⟨_, _, _, _, _, rfl, .inr (.inl ⟨rfl, rfl, by simp [restartPart, he]⟩)⟩)
      · exact .inl (by simp [restartPart, he])
    | port =>
      cases port
      · exact .inr (.inr ⟨_, _, _, _, _, rfl, .inr (.inr (.inl ⟨rfl, rfl, by simp [restartPart, he]⟩))⟩)
      · exact .inl (by simp [restartPart, he])
    | interrupt =>
      cases h : out && ch && port && !irq
      · exact .inl (by simp [restartPart, he, h])
      · simp only [Bool.and_eq_true, Bool.not_eq_true'] at h
        obtain ⟨⟨⟨rfl, rfl⟩, rfl⟩, rfl⟩ := h
        exact .inr (.inr ⟨_, _, _, _, _, rfl, .inr (.inr (.inr (.inl ⟨rfl, rfl, rfl, rfl, rfl, by simp [restartPart, he]⟩)))⟩)
    | queue =>
      cases h : out && ch && port && irq && !rec
      · exact .inl (by simp [restartPart, he, h])
      · simp only [Bool.and_eq_true, Bool.not_eq_true'] at h
        obtain ⟨⟨⟨⟨rfl, rfl⟩, rfl⟩, rfl⟩, rfl⟩ := h
        exact .inr (.inr ⟨_, _, _, _, _, rfl,
          .inr (.inr (.inr (.inr (.inl ⟨rfl, rfl, rfl, rfl, rfl, rfl, by simp [restartPart, he]⟩))))⟩)
    | completion =>
      cases h : out && ch && port && irq && rec
      · exact .inl (by simp [restartPart, he, h])
      · simp only [Bool.and_eq_true] at h
        obtain ⟨⟨⟨⟨rfl, rfl⟩, rfl⟩, rfl⟩, rfl⟩ := h
        exact .inr (.inr ⟨_, _, _, _, _, rfl,
          .inr (.inr (.inr (.inr (.inr ⟨rfl, rfl, rfl, rfl, rfl, rfl, by simp [restartPart, he]⟩))))⟩)

end Sys2Proof.Machine
end

