-- ==== Sys2Proof/WellFormed.lean ====
section
/-! DEFINITION. Which terms of Instr name the event their row stands for. Operand ranges are in the types; what is left
is that an opcode and an address belong to the row that carries them. -/

namespace Sys2Proof

/-- The window addresses a write of which has a row of its own (CONTROL 0x03 has its rows for a changed bit only, and a
CONTROL write that changes no bit is a plain REGISTER_WRITE). -/
def hasWriteRow (a : Address) : Bool :=
  a.toNat ∈ [0x05, 0x06, 0x07, 0x0C, 0x0D, 0x0E, 0x18, 0x19, 0x1A]

/-- A term names its row's event: COMMAND_TAKEN carries a known opcode (R167), BAD_OPCODE an unknown one (R170), and
REGISTER_WRITE an address whose writes have no row of their own (R163). Every other term is well formed. -/
def Instr.wellFormed : Instr → Bool
  | .commandTaken op => (decodeOpcode op).isSome
  | .badOpcode op => (decodeOpcode op).isNone
  | .registerWrite a _ => !hasWriteRow a
  | .readEntry | .writeEntry | .arm | .disarm | .release | .releaseAll _ | .readChannel | .writeChannel | .enable
  | .disable | .readLine | .writeLine | .silence | .override | .resume | .pop | .flush | .readAcc | .writeAcc
  | .clearPortCounts | .restart _ | .cmdOpWriteLost _ | .evaluation _ | .captureStep | .qualificationTimerExpiry _
  | .qualificationExpiryTaken | .shapingTimerExpiry _ | .shapingExpiryTaken | .tickBy _ | .freshnessExpiry _ | .arrival
  | .arrivalOutcome | .frameStart | .frameEnd | .injTagWrite _ | .injValueLowWrite _ | .injValueHighWrite _
  | .tbdivLowWrite _ | .tbdivHighWrite _ | .oeChange _ | .portEnChange _ | .watermarkWrite _ | .intFlagsClear _
  | .intMaskWrite _ | .headLatchLoad | .timestampLatchLoad | .bitmapLatchLoad _ | .recordSubmission _
  | .shutoffAssert | .shutoffRelease | .powerOnReset | .powerOnResetEnd | .sclkRisingEdge _ => true

end Sys2Proof
end

