-- ==== Sys2Proof/Laws/PerInstr.lean ====
section
/-! SUPPORT. What holds of every command as a term, one lemma per constructor of Instr: a term is well formed exactly
when the operand that its row names belongs to it. -/

namespace Sys2Proof.Laws.Named

/-- A term is well formed exactly when: a COMMAND_TAKEN carries a known opcode (R167), a BAD_OPCODE an unknown one
(R170), and a REGISTER_WRITE an address whose writes have no row of their own (R163). -/
def Statement (i : Instr) : Prop :=
  i.wellFormed = true ↔
    (∀ op : Byte, i = .commandTaken op → (decodeOpcode op).isSome = true)
      ∧ (∀ op : Byte, i = .badOpcode op → decodeOpcode op = none)
      ∧ ∀ (a : Address) (v : Byte), i = .registerWrite a v → hasWriteRow a = false

/-- A command whose row limits no operand is well formed. -/
theorem of_free {i : Instr} (h : i.wellFormed = true) (taken : ∀ op : Byte, i ≠ .commandTaken op)
    (bad : ∀ op : Byte, i ≠ .badOpcode op) (write : ∀ (a : Address) (v : Byte), i ≠ .registerWrite a v) :
    Statement i :=
  ⟨fun _ => ⟨fun op e => absurd e (taken op), fun op e => absurd e (bad op), fun a v e => absurd e (write a v)⟩,
    fun _ => h⟩

theorem readEntry : Statement .readEntry := of_free rfl nofun nofun nofun
theorem writeEntry : Statement .writeEntry := of_free rfl nofun nofun nofun
theorem arm : Statement .arm := of_free rfl nofun nofun nofun
theorem disarm : Statement .disarm := of_free rfl nofun nofun nofun
theorem release : Statement .release := of_free rfl nofun nofun nofun
theorem releaseAll (x : Extent) : Statement (.releaseAll x) := of_free rfl nofun nofun nofun
theorem readChannel : Statement .readChannel := of_free rfl nofun nofun nofun
theorem writeChannel : Statement .writeChannel := of_free rfl nofun nofun nofun
theorem enable : Statement .enable := of_free rfl nofun nofun nofun
theorem disable : Statement .disable := of_free rfl nofun nofun nofun
theorem readLine : Statement .readLine := of_free rfl nofun nofun nofun
theorem writeLine : Statement .writeLine := of_free rfl nofun nofun nofun
theorem silence : Statement .silence := of_free rfl nofun nofun nofun
theorem override : Statement .override := of_free rfl nofun nofun nofun
theorem resume : Statement .resume := of_free rfl nofun nofun nofun
theorem pop : Statement .pop := of_free rfl nofun nofun nofun
theorem flush : Statement .flush := of_free rfl nofun nofun nofun
theorem readAcc : Statement .readAcc := of_free rfl nofun nofun nofun
theorem writeAcc : Statement .writeAcc := of_free rfl nofun nofun nofun
theorem clearPortCounts : Statement .clearPortCounts := of_free rfl nofun nofun nofun
theorem restart (x : RestartExtent) : Statement (.restart x) := of_free rfl nofun nofun nofun
theorem badOpcode (op : Byte) : Statement (.badOpcode op) :=
  ⟨fun h => ⟨nofun, fun _ e => by cases e; exact Option.isNone_iff_eq_none.mp h, nofun⟩,
    fun h => Option.isNone_iff_eq_none.mpr (h.2.1 op rfl)⟩
theorem cmdOpWriteLost (op : Byte) : Statement (.cmdOpWriteLost op) := of_free rfl nofun nofun nofun
theorem evaluation (x : Extent) : Statement (.evaluation x) := of_free rfl nofun nofun nofun
theorem captureStep : Statement .captureStep := of_free rfl nofun nofun nofun
theorem qualificationTimerExpiry (n : Fin 32) : Statement (.qualificationTimerExpiry n) := of_free rfl nofun nofun nofun
theorem qualificationExpiryTaken : Statement .qualificationExpiryTaken := of_free rfl nofun nofun nofun
theorem shapingTimerExpiry (n : Fin 32) : Statement (.shapingTimerExpiry n) := of_free rfl nofun nofun nofun
theorem shapingExpiryTaken : Statement .shapingExpiryTaken := of_free rfl nofun nofun nofun
theorem tickBy (x : TickExtent) : Statement (.tickBy x) := of_free rfl nofun nofun nofun
theorem freshnessExpiry (c : Fin 16) : Statement (.freshnessExpiry c) := of_free rfl nofun nofun nofun
theorem arrival : Statement .arrival := of_free rfl nofun nofun nofun
theorem arrivalOutcome : Statement .arrivalOutcome := of_free rfl nofun nofun nofun
theorem frameStart : Statement .frameStart := of_free rfl nofun nofun nofun
theorem frameEnd : Statement .frameEnd := of_free rfl nofun nofun nofun
theorem injTagWrite (v : Byte) : Statement (.injTagWrite v) := of_free rfl nofun nofun nofun
theorem injValueLowWrite (v : Byte) : Statement (.injValueLowWrite v) := of_free rfl nofun nofun nofun
theorem injValueHighWrite (v : Byte) : Statement (.injValueHighWrite v) := of_free rfl nofun nofun nofun
theorem tbdivLowWrite (v : Byte) : Statement (.tbdivLowWrite v) := of_free rfl nofun nofun nofun
theorem tbdivHighWrite (v : Byte) : Statement (.tbdivHighWrite v) := of_free rfl nofun nofun nofun
theorem oeChange (v : Byte) : Statement (.oeChange v) := of_free rfl nofun nofun nofun
theorem portEnChange (v : Byte) : Statement (.portEnChange v) := of_free rfl nofun nofun nofun
theorem watermarkWrite (v : Byte) : Statement (.watermarkWrite v) := of_free rfl nofun nofun nofun
theorem intFlagsClear (v : Byte) : Statement (.intFlagsClear v) := of_free rfl nofun nofun nofun
theorem intMaskWrite (v : Byte) : Statement (.intMaskWrite v) := of_free rfl nofun nofun nofun
theorem headLatchLoad : Statement .headLatchLoad := of_free rfl nofun nofun nofun
theorem timestampLatchLoad : Statement .timestampLatchLoad := of_free rfl nofun nofun nofun
theorem bitmapLatchLoad (b : Bitmap) : Statement (.bitmapLatchLoad b) := of_free rfl nofun nofun nofun
theorem registerWrite (a : Address) (v : Byte) : Statement (.registerWrite a v) :=
  ⟨fun h => ⟨nofun, nofun, fun _ _ e => by cases e; simpa [Instr.wellFormed] using h⟩,
    fun h => by simpa [Instr.wellFormed] using h.2.2 a v rfl⟩
theorem recordSubmission (w : Submitter) : Statement (.recordSubmission w) := of_free rfl nofun nofun nofun
theorem shutoffAssert : Statement .shutoffAssert := of_free rfl nofun nofun nofun
theorem shutoffRelease : Statement .shutoffRelease := of_free rfl nofun nofun nofun
theorem powerOnReset : Statement .powerOnReset := of_free rfl nofun nofun nofun
theorem powerOnResetEnd : Statement .powerOnResetEnd := of_free rfl nofun nofun nofun
theorem sclkRisingEdge (sdat : Bool) : Statement (.sclkRisingEdge sdat) := of_free rfl nofun nofun nofun
theorem commandTaken (op : Byte) : Statement (.commandTaken op) :=
  ⟨fun h => ⟨fun _ e => by cases e; exact h, nofun, nofun⟩, fun h => h.1 op rfl⟩

end Sys2Proof.Laws.Named
end

