-- ==== Sys2Proof/Tests/Slice0.lean ====
section
/-! SUPPORT. Tests: ill-formed terms that WellFormed refuses, the opcodes of Table 10-2, one step of each command on a
small state with what the spec's rules and examples give for it, and for each statement with hypotheses a state that
meets them. -/

namespace Sys2Proof.Tests

open Sys2Proof.Machine Sys2Proof.Safety Sys2Proof.Claims

set_option Elab.async false

/-! ## Ill-formed terms -/

theorem test_commandTaken_unknown_opcode_illFormed : (Instr.commandTaken 0x00).wellFormed = false := by decide
theorem test_badOpcode_known_opcode_illFormed : (Instr.badOpcode 0x30).wellFormed = false := by decide
theorem test_registerWrite_of_int_flags_illFormed : (Instr.registerWrite 0x05 0x01).wellFormed = false := by decide
theorem test_registerWrite_of_arg_wellFormed : (Instr.registerWrite 0x08 0x06).wellFormed = true := by decide
theorem test_no_row_has_bits : decodeTableWord 8 0x30 = none := by decide

/-! ## Opcodes (Table 10-2), written out -/

theorem test_opcode_readEntry : decodeOpcode 0b00000001 = some .readEntry := by decide
theorem test_opcode_releaseAll : decodeOpcode 0b00000110 = some .releaseAll := by decide
theorem test_opcode_disable : decodeOpcode 0b00010011 = some .disable := by decide
theorem test_opcode_resume : decodeOpcode 0b00100100 = some .resume := by decide
theorem test_opcode_pop : decodeOpcode 0b00110000 = some .pop := by decide
theorem test_opcode_writeAcc : decodeOpcode 0b01000001 = some .writeAcc := by decide
theorem test_opcode_clearPortCounts : decodeOpcode 0b01010000 = some .clearPortCounts := by decide
theorem test_opcode_restart : decodeOpcode 0b01111111 = some .restart := by decide
theorem test_opcode_unknown : decodeOpcode 0b00000111 = none := by decide

/-! ## States -/

/-- The state after one command. -/
def run (c : Instr) (s : State) : State :=
  match exec c s with
  | .next t => t
  | .fault _ => s
  | .refused _ => s

/-- Command `c` waits with its owner, with the captured arguments; the free engine has taken a table command. -/
def asked (c : Command) (arg0 arg1 : Byte) (s : State) : State :=
  { s with
    cmd := { s.cmd with op := encodeOpcode c, captured0 := arg0, captured1 := arg1, state := .pending }
    engine := if c.isTable then .taken .table else s.engine
    captures := if c.isCapture then s.captures ++ [.command] else s.captures }

/-- Staging as the command sees it. -/
def seeing (b : Vector Byte 32) (s : State) : State :=
  { s with cmd := { s.cmd with seen := b } }

def withEntry (n : Fin 32) (e : Entry) (s : State) : State :=
  { s with entries := s.entries.set n e }

def withChannel (c : Fin 16) (ch : Channel) (s : State) : State :=
  { s with channels := s.channels.set c ch }

def withLine (l : Fin 16) (ln : Line) (s : State) : State :=
  { s with lines := s.lines.set l ln }

/-- A configuration of the spec's examples: ABOVE, RELEASE_SIDE, limit 100, hysteresis 5, on_delay 3, off_delay 2, on
channel 2 (section 3.7). -/
def config : EntryConfig :=
  { EntryConfig.powerOn with
    channel := 2, limit := 100, hysteresis := 5, onDelay := 3, offDelay := 2, eventTrip := true, eventClear := true,
    severity := 2 }

/-- Entry 8 of section 3.7 in NORMAL with last value 90. -/
def entry : Entry :=
  { Entry.powerOn with cfg := config, state := .normal, effLimit := 100, lastValue := some 90 }

/-- The same entry on line 6 (section 5.3). -/
def lineEntry : Entry :=
  { entry with cfg := { config with output := some 6, onDelay := 0, offDelay := 0 } }

/-- A LIVE channel. -/
def liveChannel : Channel :=
  { Channel.powerOn with
    cfg := { Channel.powerOn.cfg with
      source := .either, avgLen := .four, freshWindow := 5, zeroOffset := 10, faultEvents := true, faultSeverity := 1 }
    state := .live, ring := [100], value := 100, arrivals := 3 }

/-- A line whose only contribution is that of entry 8. -/
def demandedLine : Line :=
  { Line.powerOn with
    contrib := (Vector.replicate 32 false).set 8 true, demand := true, want := true, hold := true, pinActive := true }

/-- Channel 2 is LIVE and entry 8 watches it; the outputs are enabled. -/
def watching (e : Entry) : State :=
  withEntry 8 e (withChannel 2 liveChannel { State.reset with oe := true })

/-- Entry 8 HELD, with its line in demand. -/
def heldEntry : Entry :=
  { lineEntry with cfg := { lineEntry.cfg with latch := true }, state := .held, lastValue := some 80 }

/-- Entry 8 HELD and contributing to line 6. -/
def held : State :=
  withLine 6 demandedLine (watching heldEntry)

/-- Entry 8 TRIPPED, contributing to line 6. -/
def tripped : State :=
  withLine 6 demandedLine (watching { lineEntry with state := .tripped, condition := true })

/-- A record of the queue. -/
def record (k : RecordKind) (severity : BitVec 2) (seq : Half) : Record :=
  { body := {
      kind := k, severity := severity, byRelease := false, valuePresent := false, fromTimer := false, value := 0, aux := 0 }
    seq := seq, timestamp := 7, lossBefore := false }

/-- A queue of two records. -/
def queued : State :=
  { State.reset with
    queue := { State.reset.queue with records := [record (.trip 5) 2 200, record .cutoff 3 201], nextSeq := 202 } }

/-- The full queue of section 4.8: severity 2 at the head, 59 records of severity 3, and the four newest. -/
def fullQueue : State :=
  { State.reset with
    queue := { State.reset.queue with
      records := record (.trip 1) 2 200 :: ((List.range 59).map fun i => record .cutoff 3 (BitVec.ofNat 16 (201 + i)))
        ++ [record (.stale 4) 1 260, record (.trip 9) 3 261, record (.trip 5) 0 262, record (.clear 9) 3 263]
      nextSeq := 264, watermark := 48 } }

/-- A submission within a work item. -/
def submission (who : Submitter) (item : Nat) (loose : Bool) (k : RecordKind) (severity : BitVec 2) : Waiting :=
  { submitter := who, item := item, loose := loose, body := (record k severity 0).body }

/-- A submission of one record. -/
def submitted (who : Submitter) (k : RecordKind) (severity : BitVec 2) (s : State) : State :=
  { s with waiting := [submission who 0 false k severity] }

/-- One tick on its way to each of the three owners. -/
def ticking (s : State) : State :=
  { s with due := { timestamp := 1, timerBank := 1, channels := Vector.replicate 16 1 } }

/-- The port in RECEIVING with the frame of section 8.8: tag 5, GOOD, value -300, parity 0. -/
def received : State :=
  { State.reset with
    sfrm := true
    port := { Port.powerOn with
      reception := .receiving, enabled := true, bitCount := 24, shiftReg := 0b1_0101_00_1111111011010100_0 } }

/-! ## One step of each command -/

theorem test_readEntry_onDelay_and_state :
    (run .readEntry (asked .readEntry 8 0 (watching entry))).staging[11] = 3
      ∧ (run .readEntry (asked .readEntry 8 0 (watching entry))).staging[22] = 2 := by decide +kernel

/-- READ_ENTRY of entry 8 has been taken, and a tick has then expired its qualification timer (R58). -/
def readAtExpiry : State :=
  asked .readEntry 8 0 (watching { entry with state := .pendingTrip, condition := true, qual := .expired })

theorem test_readEntry_taken_before_the_expiry_shows_remaining_zero :
    (run .readEntry readAtExpiry).staging[22] = 3 ∧ (run .readEntry readAtExpiry).staging[24] = 0
      ∧ (run .readEntry readAtExpiry).engine = .taken (.expiry 8 .qualification) := by decide +kernel

theorem test_writeEntry_retunes_an_armed_entry :
    (run .writeEntry (asked .writeEntry 8 0 (seeing (entryImage { entry with cfg := { config with limit := 750 } } false)
      (watching entry)))).entries[8].cfg.limit = 750 := by decide +kernel

theorem test_writeEntry_of_self_tracking :
    (run .writeEntry (asked .writeEntry 12 0 (seeing (entryImage { entry with cfg := { config with track := some 12 } }
      false) (watching entry)))).cmd.result = .trackDepth := by decide +kernel

theorem test_arm_with_start_inhibit :
    (run .arm (asked .arm 8 0 (watching { entry with
      cfg := { config with startInhibit := true }, state := .disarmed }))).entries[8].state = .inhibited := by decide +kernel

theorem test_arm_on_an_off_channel :
    (run .arm (asked .arm 8 0 (withEntry 8 { entry with state := .disarmed } State.reset))).cmd.result = .channelOff := by
  decide +kernel

theorem test_disarm_withdraws :
    (run .disarm (asked .disarm 8 0 tripped)).lines[6].pinActive = false
      ∧ (run .disarm (asked .disarm 8 0 tripped)).waiting = [] := by decide +kernel

theorem test_release_hands_over_a_clear_record :
    (run .release (asked .release 8 0 held)).waiting.map (fun w => (w.body.kind, w.body.byRelease, w.body.value)) =
      [(.clear 8, true, 80)] := by decide +kernel

theorem test_release_of_an_entry_not_held :
    (run .release (asked .release 8 0 tripped)).cmd.result = .notHeld := by decide +kernel

theorem test_releaseAll_counts :
    (run (.releaseAll .finish) (asked .releaseAll 0 0 (withEntry 31 heldEntry held))).cmd.arg0 = 2 := by decide +kernel

theorem test_readChannel_state_and_ring :
    (run .readChannel (asked .readChannel 2 0 (watching entry))).staging[5] = 2
      ∧ (run .readChannel (asked .readChannel 2 0 (watching entry))).staging[12] = 100 := by decide +kernel

theorem test_writeChannel_length_of_a_live_channel :
    (run .writeChannel (asked .writeChannel 2 0 (watching entry))).cmd.result = .channelOn := by decide +kernel

theorem test_enable_starts_waiting :
    (run .enable (asked .enable 4 0 State.reset)).channels[4].state = .waiting := by decide +kernel

theorem test_disable_of_a_channel_in_use :
    (run .disable (asked .disable 2 0 (watching entry))).cmd.result = .inUse := by decide +kernel

theorem test_readLine_count_and_contribution :
    (run .readLine (asked .readLine 6 0 tripped)).staging[3] = 1
      ∧ (run .readLine (asked .readLine 6 0 tripped)).staging[5] = 1 := by decide +kernel

theorem test_writeLine_exclusive_while_both_hold :
    (run .writeLine (asked .writeLine 6 0 (seeing ((Vector.replicate 32 0).set 0 0x08)
      (withLine 7 demandedLine tripped)))).cmd.result = .pairBusy := by decide +kernel

theorem test_silence_releases_the_pin :
    (run .silence (asked .silence 6 0 tripped)).lines[6].pinActive = false := by decide +kernel

theorem test_override_blocked_by_its_partner :
    (run .override (asked .override 7 1 { tripped with exclusive := tripped.exclusive.set 3 true })).lines[7].blocked =
      true := by decide +kernel

theorem test_resume_ends_the_cut :
    (run .resume (asked .resume 0 0 (withLine 6 { demandedLine with cutMember := true, cut := true, pinActive := false }
      tripped))).lines[6].pinActive = true := by decide +kernel

theorem test_pop_removes_the_head :
    (run .pop (asked .pop 0 0 queued)).queue.records.map (·.seq) = [201] := by decide +kernel

theorem test_pop_of_an_empty_queue : (run .pop (asked .pop 0 0 State.reset)).cmd.result = .queueEmpty := by
  decide +kernel

theorem test_flush_keeps_next_seq : (run .flush (asked .flush 0 0 queued)).queue.nextSeq = 202 := by decide +kernel

theorem test_readAcc_low_byte_first :
    (run .readAcc (asked .readAcc 3 0 { State.reset with accs := State.reset.accs.set 3 0x01020304 })).staging[0] =
      0x04 := by decide +kernel

theorem test_writeAcc_reads_four_bytes :
    (run .writeAcc (asked .writeAcc 7 0 (seeing ((Vector.replicate 32 0).set 3 0x80) State.reset))).accs[7] =
      0x80000000 := by decide +kernel

theorem test_clearPortCounts :
    (run .clearPortCounts (asked .clearPortCounts 0 0
      { State.reset with port := { Port.powerOn with marker := 9 } })).port.marker = 0 := by decide +kernel

theorem test_restart_removes_what_waits :
    (run (.restart .finish) (asked .restart 0 0 (submitted .channelUnit (.stale 4) 1 queued))).queue.records.map
        (fun r => (r.body.kind, r.seq)) = [(.restart, 203)]
      ∧ (run (.restart .finish) (asked .restart 0 0 (submitted .channelUnit (.stale 4) 1 queued))).waiting = [] := by
  decide +kernel

theorem test_restart_sets_three_flags :
    (run (.restart .finish) (asked .restart 0 0 queued)).intr.flags = 0x23 := by decide +kernel

theorem test_badOpcode_completes : (run (.badOpcode 0x07) State.reset).cmd.result = .badOpcode := by decide +kernel

theorem test_cmdOpWriteLost_keeps_the_opcode :
    (run (.cmdOpWriteLost 0x30) (asked .disarm 6 0 State.reset)).cmd.op = 0x04
      ∧ (run (.cmdOpWriteLost 0x30) (asked .disarm 6 0 State.reset)).intr.flags = 0x40 := by decide +kernel

theorem test_commandTaken_captures :
    (run (.commandTaken 0x04) { State.reset with cmd := { CommandUnit.powerOn with arg0 := 6 } }).cmd.captured0 = 6 := by
  decide +kernel

/-- Entry 8 at an evaluation that cancels its expired timer: the claim that waits becomes void (R42, log 11). -/
def cancelling : State :=
  { watching { entry with state := .pendingTrip, condition := true, qual := .expired } with
    engine := .handling 2 (.good 90) 0 }

theorem test_evaluation_starts_the_delay_or_cancels_it :
    (run (.evaluation .advance) { watching entry with engine := .handling 2 (.good 104) 0 }).entries[8].qual =
        .running 3
      ∧ (run (.evaluation .advance) cancelling).entries[8].qualVoid = 1
      ∧ (run (.evaluation .finish) cancelling).engine = .taken (.expiry 8 .qualification) := by decide +kernel

theorem test_evaluation_settles_and_trips :
    (run (.evaluation .finish) { watching lineEntry with engine := .settling 2 (.sample 150 .good) }).lines[6].demand =
        true
      ∧ (run (.evaluation .finish) { watching lineEntry with engine := .settling 2 (.sample 150 .good) }).engine = .free := by
  decide +kernel

theorem test_captureStep_excess :
    (run .captureStep { State.reset with captures := [
      .step { acc := 3, action := .excess, const := 0, value := some 731, limit := 700 }] }).accs[3] = 31 := by
  decide +kernel

theorem test_captureStep_excess_of_absent_value :
    (run .captureStep { State.reset with accs := State.reset.accs.set 3 31, captures := [
      .step { acc := 3, action := .excess, const := 0, value := none, limit := 700 }] }).accs[3] = 31 := by
  decide +kernel

/-- A SET of accumulator 3 waits, and behind it READ_ACC. -/
def readBehindAStep : State :=
  asked .readAcc 3 0 { State.reset with
    captures := [.step { acc := 3, action := .set, const := 9, value := none, limit := 0 }] }

theorem test_readAcc_waits_behind_a_step :
    (run .readAcc readBehindAStep).cmd.state = .pending := by decide +kernel

theorem test_qualificationTimerExpiry_raises_the_claim :
    (run (.qualificationTimerExpiry 8) (ticking (watching { entry with qual := .running 1 }))).entries[8].qual = .expired := by
  decide +kernel

theorem test_qualificationExpiryTaken_trips :
    (run .qualificationExpiryTaken { watching { entry with state := .pendingTrip, qual := .expired } with
      engine := .taken (.expiry 8 .qualification) }).entries[8].state = .tripped := by decide +kernel

/-- Entry 8 is to trip on line 6 while its exclusive partner holds. -/
def blocking : State :=
  { withLine 7 demandedLine (withLine 6 { Line.powerOn with conflictEvent := true }
      (watching { lineEntry with state := .pendingTrip, condition := true, qual := .expired })) with
    exclusive := State.reset.exclusive.set 3 true, engine := .taken (.expiry 8 .qualification) }

/-- CONFLICT, CUTOFF, TRIP: a CUTOFF falls between the CONFLICT and the TRIP of one edge (R65, R97). -/
theorem test_qualificationExpiryTaken_lets_a_cutoff_fall_between :
    (run (.recordSubmission .engine) (run (.recordSubmission .outputUnit) (run (.recordSubmission .outputUnit)
      (run .shutoffAssert (run .qualificationExpiryTaken blocking))))).queue.records.map (·.body.kind) =
        [.conflict 6, .cutoff, .trip 8]
      ∧ (run .qualificationExpiryTaken (run .qualificationExpiryTaken blocking)).engine = .free := by decide +kernel

/-- One tick brings timers of entries 3 and 8 to zero, and both timers of entry 8: a free engine takes the lowest entry
first, and its qualification expiry before its shaping expiry (R44, R159). -/
theorem test_timerExpiries_of_one_tick_go_in_service_order :
    (run (.qualificationTimerExpiry 8) (ticking (withEntry 3 { entry with shape := .running 1 }
        (watching { entry with qual := .running 1 })))).engine = .taken (.expiry 3 .shaping)
      ∧ (run (.shapingTimerExpiry 8) (ticking (watching { entry with qual := .running 1, shape := .running 1 }))).engine =
          .taken (.expiry 8 .qualification) := by
  decide +kernel

theorem test_shapingTimerExpiry_raises_the_claim :
    (run (.shapingTimerExpiry 8) (ticking (watching { entry with shape := .running 1 }))).entries[8].shape = .expired := by
  decide +kernel

/-- Entry 8 with BLINK shaping, its expiry taken by the engine. -/
def blinking : State :=
  { withLine 6 demandedLine (watching { lineEntry with
      cfg := { lineEntry.cfg with shaping := .blink, shapeTicks := 2 }, state := .tripped, condition := true,
      shape := .expired, phase := true }) with
    engine := .taken (.expiry 8 .shaping) }

theorem test_shapingExpiryTaken_toggles :
    (run .shapingExpiryTaken blinking).lines[6].demand = false
      ∧ (run .shapingExpiryTaken blinking).entries[8].shape = .running 2 := by decide +kernel

theorem test_tick_counts_down_and_expires :
    (run .tick (watching { entry with state := .pendingTrip, qual := .running 3 })).entries[8].qual = .running 2
      ∧ (run .tick (watching { entry with state := .pendingTrip, qual := .running 1 })).entries[8].qual = .expired := by
  decide +kernel

theorem test_tick_begins_with_the_committed_divider :
    (run (.tickBy .interval) { State.reset with timebase := { Timebase.powerOn with tbdiv := 311 } }).timebase.dividerInUse =
      311 := by decide +kernel

theorem test_freshnessExpiry_makes_stale :
    (run (.freshnessExpiry 2) (ticking (withChannel 2 { liveChannel with fresh := .running 1 } State.reset))).channels[2].state =
      .stale := by decide +kernel

/-- A good frame for channel 2 on its way. -/
def delivered : State :=
  { watching entry with port := { Port.powerOn with delivered := [{ channel := 2, raw := 130, status := .good }] } }

/-- A free engine takes the item at once (R34), and a second arrival finds the slot empty (R124). -/
theorem test_arrival_is_taken_by_a_free_engine :
    (run .arrival delivered).channels[2].arrivals = 4
      ∧ (run .arrival delivered).engine = .settling 2 (.sample 130 .good)
      ∧ (run .arrival delivered).channels[2].slot = none ∧ (run .arrival delivered).pointer = 2
      ∧ (run (.injTagWrite 0x02) (run .arrival delivered)).channels[2].slot = some (.sample 0 .good)
      ∧ (run (.injTagWrite 0x02) (run .arrival delivered)).channels[2].overruns = 0 := by decide +kernel

/-- A READ_CHANNEL handed over before the arrival shows the channel before it (R120). -/
theorem test_arrival_comes_behind_a_channel_command :
    (run .arrival (asked .readChannel 2 0 delivered)).staging[31] = 3
      ∧ (run .arrival (asked .readChannel 2 0 delivered)).cmd.state = .done := by decide +kernel

theorem test_arrivalOutcome_counts_a_refusal :
    (run .arrivalOutcome { State.reset with port := { Port.powerOn with outcomes := [.refusedOff] } }).port.unrouted =
      1 := by decide +kernel

/-- A CLEAR_PORT_COUNTS handed over before an outcome clears the counter before the outcome is counted (R144). -/
theorem test_arrivalOutcome_comes_behind_clearPortCounts :
    (run .arrivalOutcome (asked .clearPortCounts 0 0
      { State.reset with port := { Port.powerOn with unrouted := 9, outcomes := [.refusedOff] } })).port.unrouted = 1 := by
  decide +kernel

theorem test_frameStart_begins_reception :
    (run .frameStart { State.reset with port := { Port.powerOn with reception := .idle, enabled := true } }).port.reception =
      .receiving := by decide +kernel

theorem test_frameEnd_delivers_minus_300 :
    (run .frameEnd received).port.delivered = [{ channel := 5, raw := 0xFED4, status := .good }] := by decide +kernel

theorem test_frameEnd_of_23_bits :
    (run .frameEnd { received with port := { received.port with bitCount := 23 } }).port.length = 1 := by decide +kernel

theorem test_sclkRisingEdge_shifts_left :
    (run (.sclkRisingEdge true) { received with port := { received.port with bitCount := 1, shiftReg := 1 } }).port.shiftReg
      = 3 := by decide +kernel

theorem test_injTagWrite_of_an_off_channel :
    (run (.injTagWrite 0x05) State.reset).inj.result = .refusedOff := by decide +kernel

theorem test_injTagWrite_injects :
    (run (.injTagWrite 0x32) (watching entry)).engine = .settling 2 (.sample 0 .fault) := by decide +kernel

theorem test_injValueLowWrite_waits_for_the_high_byte :
    (run (.injValueLowWrite 0xD4) State.reset).inj.value = 0 := by decide +kernel

theorem test_injValueHighWrite_commits :
    (run (.injValueHighWrite 0xFE) { State.reset with inj := { Injection.powerOn with latch := 0xD4 } }).inj.value =
      0xFED4 := by decide +kernel

theorem test_tbdivLowWrite_waits_for_the_high_byte :
    (run (.tbdivLowWrite 0x37) State.reset).timebase.tbdiv = 155 := by decide +kernel

theorem test_tbdivHighWrite_commits :
    (run (.tbdivHighWrite 0x01) { State.reset with timebase := { Timebase.powerOn with tbdivLatch := 0x37 } }).timebase.tbdiv
      = 311 := by decide +kernel

theorem test_oeChange_activates_a_held_line :
    (run (.oeChange 0x01) { tripped with oe := false }).lines[6].pinActive = true := by decide +kernel

theorem test_portEnChange_with_sfrm_high :
    (run (.portEnChange 0x02) { State.reset with sfrm := true }).port.reception = .waitLow := by decide +kernel

theorem test_watermarkWrite_of_zero : (run (.watermarkWrite 0x00) State.reset).queue.watermark = 1 := by decide +kernel

theorem test_watermarkWrite_at_the_count : (run (.watermarkWrite 0x02) queued).intr.flags = 0x01 := by decide +kernel

theorem test_intFlagsClear_clears_what_is_written :
    (run (.intFlagsClear 0x60) { State.reset with intr := { flags := 0x61, mask := 0 } }).intr.flags = 0x01 := by
  decide +kernel

theorem test_intMaskWrite_keeps_seven_bits : (run (.intMaskWrite 0xE0) State.reset).intr.mask = 0x60 := by
  decide +kernel

theorem test_headLatchLoad_loads_the_head :
    (run .headLatchLoad queued).queue.headLatch[0] = 200 ∧ (run .headLatchLoad queued).queue.headLatch[6] = 0x21 := by
  decide +kernel

theorem test_timestampLatchLoad_returns_the_low_byte :
    (run .timestampLatchLoad { State.reset with timebase := { Timebase.powerOn with timestamp := 0x01020304 } }).dataOut =
      some 0x04 := by decide +kernel

theorem test_read_cycle_drives_the_byte :
    dataPins true true false (busEvent true true false 0x00 0 State.reset) = some 0x4C
      ∧ dataPins true true true (busEvent true true false 0x00 0 State.reset) = none := by decide +kernel

theorem test_no_read_in_reset : dataPins true true false (busEvent true true false 0x00 0 (powerOn State.reset)) = none := by
  decide +kernel

theorem test_bitmapLatchLoad_of_channel_nine_stale :
    readWindow (run (.bitmapLatchLoad .channelState) (withChannel 9 { liveChannel with state := .stale } State.reset)) 0x72
      = 0x0C := by decide +kernel

theorem test_registerWrite_of_an_argument : (run (.registerWrite 0x08 0x06) State.reset).cmd.arg0 = 6 := by decide +kernel

theorem test_registerWrite_of_staging : (run (.registerWrite 0x5F 0xA5) State.reset).staging[31] = 0xA5 := by
  decide +kernel

theorem test_recordSubmission_evicts_the_newest_lower_or_drops :
    ((run (.recordSubmission .outputUnit) (submitted .outputUnit (.conflict 2) 1 fullQueue)).queue.records.drop 60).map
        (·.seq) = [260, 261, 263, 264]
      ∧ (run (.recordSubmission .engine) (submitted .engine (.trip 5) 0 fullQueue)).queue.nextSeq = 264
      ∧ (run (.recordSubmission .engine) (submitted .engine (.trip 5) 0 fullQueue)).queue.marks.entry[5] = true := by
  decide +kernel

/-- A CONFLICT raised by a contribution change and the TRIP of the same edge, and what waits behind them. -/
def edgeRecords (behind : List Waiting) : State :=
  { State.reset with
    waiting := [submission .outputUnit 1 true (.conflict 2) 1, submission .engine 1 true (.trip 9) 0] ++ behind }

/-- A TRIP waits behind a STALE. A STALE of the same work item may fall before the CONFLICT and the TRIP, between them, or
behind them; one handed over after the work item has ended waits. -/
theorem test_recordSubmission_keeps_the_order_of_reaching :
    (run (.recordSubmission .engine) { State.reset with
        waiting := [submission .channelUnit 1 false (.stale 4) 1, submission .engine 1 true (.trip 9) 0] }).queue.records =
        []
      ∧ (run (.recordSubmission .channelUnit) (edgeRecords [submission .channelUnit 1 false (.stale 4) 1])).waiting =
          (edgeRecords []).waiting
      ∧ (run (.recordSubmission .channelUnit) (run (.recordSubmission .outputUnit)
          (edgeRecords [submission .channelUnit 1 false (.stale 4) 1]))).queue.records.map (·.body.kind) =
          [.conflict 2, .stale 4]
      ∧ (run (.recordSubmission .channelUnit) (edgeRecords [submission .channelUnit 2 false (.stale 4) 1])).queue.records =
          [] := by decide +kernel

theorem test_shutoffAssert_cuts_a_member :
    (run .shutoffAssert (withLine 6 { demandedLine with cutMember := true } tripped)).lines[6].pinActive = false := by
  decide +kernel

/-- An OVERRIDE handed over before SHUTOFF# falls is taken before the cut (R84). -/
theorem test_shutoffAssert_comes_behind_a_line_command :
    (run .shutoffAssert (asked .override 6 2 tripped)).lines[6].override = .forceOff
      ∧ (run .shutoffAssert (asked .override 6 2 tripped)).cmd.state = .done := by decide +kernel

theorem test_shutoffRelease_keeps_the_cut :
    (run .shutoffRelease (withLine 6 { demandedLine with cutMember := true, cut := true, pinActive := false }
      { tripped with shutoff := true })).lines[6].cut = true := by decide +kernel

theorem test_powerOnReset_returns_the_divider :
    (run .powerOnReset { queued with timebase := { Timebase.powerOn with tbdiv := 7 } }).timebase.tbdiv = 155
      ∧ (run .powerOnReset queued).queue.records = [] := by decide +kernel

theorem test_powerOnResetEnd_lets_the_part_run :
    (run .powerOnResetEnd { State.reset with inReset := true }).inReset = false := by decide +kernel

/-! ## States that meet the hypotheses of the statements -/

/-- Every law holds of a state in which an entry is held, its line is in demand and a record waits in the queue. -/
def lawful : State :=
  { held with
    queue := queued.queue, sfrm := true, pending := [.release]
    port := { received.port with bitCount := 24 }
    cmd := { held.cmd with op := 0x05, captured0 := 8, state := .pending }, engine := .taken .table }

theorem witness_StepRunsFrontCommand : lawful.pending = .release :: [] := by decide

theorem witness_TickPeriodInIdleSteps :
    State.reset.pending = [] ∧ State.reset.inReset = false ∧ State.reset.timebase.prescale = 0 := by decide

theorem witness_OpcodesNameTheirCommands : decodeOpcode 0x24 = some .resume := by decide

theorem witness_ImagesReadBack :
    ConfigLaw config ∧ (∀ i : Fin 32, i.val < 22 → (entryImage entry true)[i] = (entryImage entry false)[i])
      ∧ (∀ i : Fin 32, i.val < 5 → (channelImage liveChannel true)[i] = (channelImage liveChannel false)[i])
      ∧ ¬ OutOfRange (entryImage entry false) := by
  decide +kernel

/-- An entry image that passes the range check, with one byte changed. -/
def image (i : Fin 32) (b : Byte) : Vector Byte 32 :=
  (entryImage entry false).set i b

theorem witness_EntryRangeCheck :
    OutOfRange (image 8 32) ∧ OutOfRange (image 8 254) ∧ ¬ OutOfRange (image 8 31) ∧ ¬ OutOfRange (image 8 255)
      ∧ OutOfRange (image 15 16) ∧ OutOfRange (image 19 8) ∧ OutOfRange (image 5 0x80) ∧ ¬ OutOfRange (image 7 0x7F)
      ∧ OutOfRange (image 0 0x30) ∧ OutOfRange (image 16 0x01) ∧ OutOfRange (image 16 0x0C)
      ∧ Served .writeEntry (asked .writeEntry 31 0 (seeing (image 8 32) (watching entry)))
      ∧ Index (31 : Fin 32) (asked .writeEntry 31 0 (seeing (image 8 32) (watching entry))) := by
  and_intros <;> decide +kernel

theorem witness_StepKeepsQueueLaws : QueueLaw lawful ∧ SequenceLaw lawful ∧ ∃ t : State, step lawful = .next t :=
  ⟨by decide +kernel, by decide +kernel, _, rfl⟩

theorem witness_StepKeepsOutputLaw : ResetLaw lawful ∧ OutputLaw lawful ∧ ∃ t : State, step lawful = .next t :=
  ⟨by decide +kernel, by decide +kernel, _, rfl⟩

theorem witness_StepKeepsWatchLaw : WatchLaw lawful ∧ ∃ t : State, step lawful = .next t :=
  ⟨by decide +kernel, _, rfl⟩

/-- The engine's part of RESTART is done and the output unit's is not; line 6 still stands as entry 8 left it. -/
def midRestart : State :=
  { run (.restart (.part .engine)) (asked .restart 0 0 held) with pending := [.restart (.part .output)] }

/-- The law holds of a state of ordinary running, and of one in which the withdrawals of RESTART wait (log 6). -/
theorem witness_StepKeepsContributionLaw :
    (ContributionLaw lawful ∧ ∃ t : State, step lawful = .next t)
      ∧ (withdrawalsWait midRestart = true ∧ midRestart.lines[6].contrib[8] = true ∧ ContributionLaw midRestart
        ∧ ∃ t : State, step midRestart = .next t) :=
  ⟨⟨by decide +kernel, _, rfl⟩, by decide +kernel, by decide +kernel, by decide +kernel, _, rfl⟩

/-- The engine is settling an item of channel 2. -/
def settling (item : Item) : State :=
  { watching entry with engine := .settling 2 item, pending := [.evaluation .advance] }

theorem witness_StepKeepsChannelsLaw :
    ChannelsLaw (settling (.sample 150 .good)) ∧ ∃ t : State, step (settling (.sample 150 .good)) = .next t := by
  refine ⟨⟨by decide +kernel, fun c item h => ?_⟩, _, rfl⟩
  cases h
  decide +kernel

theorem witness_StepKeepsPortTimebaseAndCommandLaws :
    (ResetLaw lawful ∧ PortLaw lawful ∧ TimebaseLaw lawful) ∧ CommandLaw lawful ∧ EngineLaw lawful
      ∧ ∃ t : State, step lawful = .next t :=
  ⟨by decide +kernel, ⟨nofun, nofun, by decide⟩, ⟨nofun, nofun, nofun, by decide⟩, _, rfl⟩

/-- The engine law also of a state in which the engine is free, and of one in which it has taken an expiry. -/
theorem witness_EngineLaw :
    EngineLaw held ∧ EngineLaw { watching { entry with qual := .expired } with
      engine := .taken (.expiry 8 .qualification) } := by
  refine ⟨⟨fun _ => by decide +kernel, nofun, nofun, nofun⟩, nofun, fun n h => ?_, nofun, nofun⟩
  cases h
  decide +kernel

theorem witness_StepKeepsResetLaw :
    ResetLaw (powerOn lawful) ∧ (powerOn lawful).inReset = true ∧ ∃ t : State, step (powerOn lawful) = .next t :=
  ⟨by decide +kernel, rfl, _, rfl⟩

theorem witness_HeadLeavesOnlyByPopFlushRestartOrReset :
    (queued.queue.records = record (.trip 5) 2 200 :: [record .cutoff 3 201] ∧ ∃ t : State, exec .tick queued = .next t)
      ∧ Waits .pop (asked .pop 0 0 queued)
      ∧ (run (.recordSubmission .engine) (submitted .engine (.trip 5) 0 State.reset)).queue.records.map (·.seq) = [0]
      ∧ (run (.restart .finish) (asked .restart 0 0 State.reset)).queue.records.map (·.seq) = [0] :=
  ⟨⟨rfl, _, rfl⟩, by decide, by decide +kernel, by decide +kernel⟩

theorem witness_QueueRecordsAreNeverAltered :
    (∃ t : State, exec (.recordSubmission .engine) fullQueue = .next t)
      ∧ ∃ t : State, exec (.restart .finish) (asked .restart 0 0 queued) = .next t := ⟨⟨_, rfl⟩, _, rfl⟩

/-- A state in which each of the three commands that may change an accumulator or a configuration does. -/
theorem witness_StoredValuesChangeOnlyByTheirCommands :
    (run .writeAcc (asked .writeAcc 0 0 (seeing (Vector.replicate 32 1) State.reset))).accs ≠ State.reset.accs
      ∧ (run .writeEntry (asked .writeEntry 8 0 (seeing (image 2 7) (watching entry)))).entries[8].cfg ≠ config
      ∧ (run .writeChannel (asked .writeChannel 4 0 (seeing (Vector.replicate 32 1) State.reset))).channels[4].cfg ≠
          Channel.powerOn.cfg
      ∧ (run .writeLine (asked .writeLine 4 0 (seeing (Vector.replicate 32 9) State.reset))).lines[4].polarity ≠
          Line.powerOn.polarity
      ∧ (run .shutoffAssert (asked .writeLine 4 0 (seeing (Vector.replicate 32 9) State.reset))).lines[4].polarity ≠
          Line.powerOn.polarity := by decide +kernel

theorem witness_FlagsAreClearedOnlyByHostOrResets :
    (∀ v : Byte, Instr.tick ≠ .intFlagsClear v ∧ Instr.tick ≠ .registerWrite 0x05 v)
      ∧ (∀ x : RestartExtent, Instr.tick ≠ .restart x)
      ∧ (∀ v : Byte, Instr.tick ≠ .intMaskWrite v ∧ Instr.tick ≠ .registerWrite 0x06 v)
      ∧ ∃ t : State, exec .tick queued = .next t :=
  ⟨fun _ => ⟨nofun, nofun⟩, nofun, fun _ => ⟨nofun, nofun⟩, _, rfl⟩

theorem witness_IndexAboveRangeIsRefused :
    (Served .arm (asked .arm 32 0 State.reset) ∧ 32 ≤ (asked .arm 32 0 State.reset).cmd.captured0.toNat)
      ∧ (Served .enable (asked .enable 16 0 State.reset) ∧ 16 ≤ (asked .enable 16 0 State.reset).cmd.captured0.toNat)
      ∧ (Waits .silence (asked .silence 16 0 State.reset) ∧ 16 ≤ (asked .silence 16 0 State.reset).cmd.captured0.toNat)
      ∧ (Waits .readAcc (asked .readAcc 8 0 State.reset) ∧ 8 ≤ (asked .readAcc 8 0 State.reset).cmd.captured0.toNat
        ∧ (asked .readAcc 8 0 State.reset).captures = .command :: []) := by
  and_intros <;> decide +kernel

theorem witness_TableCommandsRefusedByState :
    (Served .arm (asked .arm 8 0 (watching entry)) ∧ Index (8 : Fin 32) (asked .arm 8 0 (watching entry))
        ∧ (watching entry).entries[8].state ≠ .disarmed)
      ∧ (Served .arm (asked .arm 31 0 State.reset) ∧ Index (31 : Fin 32) (asked .arm 31 0 State.reset)
        ∧ State.reset.entries[31].state = .disarmed ∧ State.reset.channels[State.reset.entries[31].cfg.channel].state = .off)
      ∧ (Served .disarm (asked .disarm 0 0 State.reset) ∧ Index (0 : Fin 32) (asked .disarm 0 0 State.reset))
      ∧ (Served .release (asked .release 0 0 State.reset) ∧ Index (0 : Fin 32) (asked .release 0 0 State.reset))
      ∧ (Served .release (asked .release 8 0 tripped) ∧ Index (8 : Fin 32) (asked .release 8 0 tripped)
        ∧ tripped.entries[8].state ≠ .disarmed ∧ tripped.entries[8].state ≠ .held)
      ∧ (Served .enable (asked .enable 2 0 tripped) ∧ Index (2 : Fin 16) (asked .enable 2 0 tripped)
        ∧ tripped.channels[2].state ≠ .off)
      ∧ (Served .disable (asked .disable 2 0 tripped) ∧ Index (2 : Fin 16) (asked .disable 2 0 tripped)
        ∧ ∃ m : Fin 32, Bound 2 m tripped)
      ∧ (Served .disable (asked .disable 15 0 tripped) ∧ Index (15 : Fin 16) (asked .disable 15 0 tripped)
        ∧ (¬ ∃ m : Fin 32, Bound 15 m tripped) ∧ tripped.channels[15].state = .off) := by
  and_intros <;> decide +kernel

/-- A command that sees one staging byte 0, with argument `a`. -/
def proposing (c : Command) (a b : Byte) (s : State) : State :=
  asked c a 0 (seeing ((Vector.replicate 32 0).set 0 b) s)

/-- Line 6 is cut. -/
def cutLine : State :=
  withLine 6 { demandedLine with cutMember := true, cut := true, pinActive := false } tripped

theorem witness_OwnerCommandsRefusedByState :
    (Waits .writeChannel (proposing .writeChannel 2 3 tripped) ∧ Index (2 : Fin 16) (proposing .writeChannel 2 3 tripped))
      ∧ (Waits .writeChannel (proposing .writeChannel 2 4 tripped)
        ∧ (4 : Byte).toNat / 4 % 4 ≠ avgLenCode tripped.channels[2].cfg.avgLen ∧ tripped.channels[2].state ≠ .off)
      ∧ (Waits .writeLine (proposing .writeLine 6 2 { tripped with shutoff := true })
        ∧ (2 : Byte).getLsbD 1 ≠ tripped.lines[6].cutMember)
      ∧ (Waits .writeLine (proposing .writeLine 6 0 cutLine) ∧ (0 : Byte).getLsbD 1 ≠ cutLine.lines[6].cutMember
        ∧ cutLine.shutoff = false ∧ ∃ k : Fin 16, cutLine.lines[k].cut = true)
      ∧ (Waits .writeLine (proposing .writeLine 6 8 (withLine 7 demandedLine tripped))
        ∧ (8 : Byte).getLsbD 1 = tripped.lines[6].cutMember ∧ (8 : Byte).getLsbD 3 = true ∧ tripped.lines[6].hold = true
        ∧ (withLine 7 demandedLine tripped).lines[partner 6].hold = true)
      ∧ (Waits .silence (asked .silence 5 0 tripped) ∧ tripped.lines[5].demand = false)
      ∧ (Waits .override (asked .override 6 3 tripped) ∧ 2 < (asked .override 6 3 tripped).cmd.captured1.toNat)
      ∧ (Waits .resume (asked .resume 0 0 { tripped with shutoff := true }))
      ∧ (Waits .pop (asked .pop 0 0 State.reset) ∧ State.reset.queue.records = []) := by
  and_intros <;> decide +kernel

theorem witness_ReadEntryWritesTheImage :
    Served .readEntry (asked .readEntry 8 0 (watching entry)) ∧ Index (8 : Fin 32) (asked .readEntry 8 0 (watching entry))
      ∧ ConfigLaw (watching entry).entries[8].cfg
      ∧ (Served .readEntry readAtExpiry ∧ readAtExpiry.entries[8].qual = .expired) := by decide +kernel

theorem witness_WriteEntryChecksInOrderAndStores :
    (Served .writeEntry (asked .writeEntry 8 0 (seeing (image 2 7) (watching entry)))
        ∧ Index (8 : Fin 32) (asked .writeEntry 8 0 (seeing (image 2 7) (watching entry)))
        ∧ ¬ OutOfRange (image 2 7) ∧ EntryBytes (image 2 7) { config with limit := 7 })
      ∧ (HysteresisTooWide { config with compare := .inside, hystSide := .tripSide, band := 4 }
        ∧ EntryBytes (entryImage { entry with cfg :=
          { config with compare := .inside, hystSide := .tripSide, band := 4 } } false)
          { config with compare := .inside, hystSide := .tripSide, band := 4 })
      ∧ (¬ HysteresisTooWide { config with latch := true } ∧ entry.state ≠ .disarmed
        ∧ ¬ FixedFieldsEqual config { config with latch := true })
      ∧ (¬ HysteresisTooWide { config with track := some 12 } ∧ State.reset.entries[12].state = .disarmed
        ∧ TrackTooDeep 12 (some 12) State.reset)
      ∧ (¬ HysteresisTooWide { config with limit := 7 } ∧ FixedFieldsEqual config { config with limit := 7 }
        ∧ ¬ TrackTooDeep 8 none (watching entry)) := by
  and_intros <;> decide +kernel

/-- Entry 8 is DISARMED on a LIVE channel. -/
def unarmed : State :=
  watching { entry with state := .disarmed }

theorem witness_ArmGivesTheArmTimeState :
    Served .arm (asked .arm 8 0 unarmed) ∧ Index (8 : Fin 32) (asked .arm 8 0 unarmed)
      ∧ unarmed.entries[8].state = .disarmed ∧ unarmed.channels[unarmed.entries[8].cfg.channel].state ≠ .off := by
  decide +kernel

theorem witness_DisarmIsSilent :
    OutputLaw (asked .disarm 8 0 tripped) ∧ Served .disarm (asked .disarm 8 0 tripped)
      ∧ Index (8 : Fin 32) (asked .disarm 8 0 tripped) ∧ tripped.entries[8].state ≠ .disarmed := by decide +kernel

theorem witness_ReleaseMakesAClearEdge :
    OutputLaw (asked .release 8 0 held) ∧ Served .release (asked .release 8 0 held)
      ∧ Index (8 : Fin 32) (asked .release 8 0 held) ∧ held.entries[8].state = .held := by decide +kernel

theorem witness_ReleaseAllReleasesEveryHeldEntry :
    (OutputLaw (asked .releaseAll 0 0 held) ∧ Served .releaseAll (asked .releaseAll 0 0 held)
        ∧ held.entries[8].state = .held ∧ held.entries[7].state ≠ .held)
      ∧ (Releasing 0 0 (asked .releaseAll 0 0 held)
        ∧ ∀ m : Fin 32, 0 ≤ m.val → m < 8 → (asked .releaseAll 0 0 held).entries[m].state ≠ .held)
      ∧ (Releasing 9 1 { held with engine := .releasing 9 1 } ∧ ∀ m : Fin 32, 9 ≤ m.val → held.entries[m].state ≠ .held)
      ∧ Releasing 31 1 { withEntry 31 heldEntry held with engine := .releasing 31 1 } := by
  and_intros <;> decide +kernel

theorem witness_EnableStartsAndDisableStopsAChannel :
    (Index (15 : Fin 16) (asked .enable 15 0 tripped) ∧ Served .enable (asked .enable 15 0 tripped)
        ∧ tripped.channels[15].state = .off)
      ∧ (Index (3 : Fin 16) (asked .disable 3 0 (withChannel 3 liveChannel tripped))
        ∧ Served .disable (asked .disable 3 0 (withChannel 3 liveChannel tripped))
        ∧ (¬ ∃ m : Fin 32, Bound 3 m (withChannel 3 liveChannel tripped))
        ∧ (withChannel 3 liveChannel tripped).channels[3].state ≠ .off) := by decide +kernel

theorem witness_RestartReturnsEveryBlock :
    Served .restart (asked .restart 0 0 held)
      ∧ Served .restart (asked .restart 0 0 (submitted .channelUnit (.stale 4) 1 queued)) := by decide +kernel

/-- A restart in progress. -/
def restarting (out ch port irq rec : Bool) : State :=
  { asked .restart 0 0 held with engine := .restarting out ch port irq rec }

theorem witness_RestartPartsMakeTheRestart :
    (Served .restart (asked .restart 0 0 held) ∧ Served .restart (asked .restart 0 0 queued))
      ∧ ((∀ out ch port irq rec : Bool, held.engine ≠ .restarting out ch port irq rec) ∧ ¬ Served .restart held)
      ∧ (∀ out ch port irq rec : Bool, (asked .restart 0 0 held).engine ≠ .restarting out ch port irq rec)
      ∧ (∀ out ch port irq rec : Bool, (restarting out ch port irq rec).engine = .restarting out ch port irq rec)
      ∧ ∃ t : State, QueueTakesRestart (restarting true true true true false) t :=
  ⟨by decide +kernel, ⟨nofun, by decide⟩, nofun, fun _ _ _ _ _ => rfl, _, _, rfl, rfl⟩

theorem witness_ReadCommandsWriteTheirImages :
    (ChannelLaw tripped.channels[2] ∧ Waits .readChannel (asked .readChannel 2 0 tripped)
        ∧ Index (2 : Fin 16) (asked .readChannel 2 0 tripped))
      ∧ (Waits .readLine (asked .readLine 15 0 tripped) ∧ Index (15 : Fin 16) (asked .readLine 15 0 tripped))
      ∧ (Waits .readAcc (asked .readAcc 7 0 tripped) ∧ Index (7 : Fin 8) (asked .readAcc 7 0 tripped)
        ∧ (asked .readAcc 7 0 tripped).captures = .command :: []) := by
  decide +kernel

theorem witness_WriteChannelAndWriteAccStore :
    (Waits .writeChannel (proposing .writeChannel 2 0x0A tripped) ∧ Index (2 : Fin 16) (proposing .writeChannel 2 0x0A tripped)
        ∧ (0x0A : Byte).toNat % 4 ≠ 3
        ∧ (0x0A : Byte).toNat / 4 % 4 = avgLenCode tripped.channels[2].cfg.avgLen)
      ∧ State.reset.channels[4].state = .off
      ∧ (Waits .writeAcc (asked .writeAcc 7 0 tripped) ∧ Index (7 : Fin 8) (asked .writeAcc 7 0 tripped)
        ∧ (asked .writeAcc 7 0 tripped).captures = .command :: []) := by
  decide +kernel

theorem witness_WriteLineStoresAndFreesTheBlockedLine :
    Waits .writeLine (proposing .writeLine 6 0 tripped) ∧ Index (6 : Fin 16) (proposing .writeLine 6 0 tripped)
      ∧ (0 : Byte).getLsbD 1 = tripped.lines[6].cutMember ∧ (0 : Byte).getLsbD 3 = false
      ∧ (tripped.shutoff = false ∧ ∀ k : Fin 16, tripped.lines[k].cut = false) := by decide +kernel

theorem witness_SilenceQuietsALineInDemand :
    OutputLaw (asked .silence 6 0 tripped) ∧ Waits .silence (asked .silence 6 0 tripped)
      ∧ Index (6 : Fin 16) (asked .silence 6 0 tripped) ∧ tripped.lines[6].demand = true
      ∧ tripped.lines[6].override = .auto := by decide +kernel

theorem witness_OverrideSetsTheMode :
    OutputLaw (asked .override 6 2 tripped) ∧ Waits .override (asked .override 6 2 tripped)
      ∧ Index (6 : Fin 16) (asked .override 6 2 tripped)
      ∧ (asked .override 6 2 tripped).cmd.captured1.toNat = overrideCode .forceOff := by decide +kernel

theorem witness_CutoffAndResume :
    (tripped.shutoff = false ∧ tripped.inReset = false)
      ∧ (Waits .resume (asked .resume 0 0 tripped) ∧ (asked .resume 0 0 tripped).shutoff = false)
      ∧ (Waits .resume (asked .resume 0 0 { tripped with shutoff := true })
        ∧ (asked .resume 0 0 { tripped with shutoff := true }).shutoff = true)
      ∧ ({ tripped with shutoff := true }.shutoff = true ∧ tripped.shutoff = false)
      ∧ Waits .override (asked .override 6 2 tripped) := by decide +kernel

theorem witness_ControlWriteSetsPinsAndPort :
    OutputLaw tripped ∧ State.reset.inReset = false ∧ (0x03 : Byte).getLsbD 0 ≠ State.reset.oe ∧ (0x02 : Byte).getLsbD 0 = State.reset.oe
      ∧ ((0x03 : Byte).getLsbD 1 = true ∧ State.reset.port.enabled = false)
      ∧ (0x01 : Byte).getLsbD 1 = State.reset.port.enabled
      ∧ ((0x01 : Byte).getLsbD 1 = false ∧ received.port.enabled = true) := by decide +kernel

theorem witness_PopFlushAndWatermark :
    (Waits .pop (asked .pop 0 0 queued)
        ∧ (asked .pop 0 0 queued).queue.records = record (.trip 5) 2 200 :: [record .cutoff 3 201])
      ∧ (Waits .pop (asked .pop 0 0 State.reset) ∧ (asked .pop 0 0 State.reset).queue.records = [])
      ∧ Waits .flush (asked .flush 0 0 queued) ∧ queued.inReset = false := by decide

theorem witness_SubmissionIsAdmittedEvictsOrIsDropped :
    ((submitted .engine (.trip 5) 0 queued).waiting =
          [] ++ submission .engine 0 false (.trip 5) 0 :: []
        ∧ queued.queue.records.length < 64)
      ∧ (fullQueue.queue.records = record (.trip 1) 2 200 :: (((List.range 59).map fun i =>
            record .cutoff 3 (BitVec.ofNat 16 (201 + i))) ++ [record (.stale 4) 1 260, record (.trip 9) 3 261]
            ++ record (.trip 5) 0 262 :: [record (.clear 9) 3 263])
        ∧ fullQueue.queue.records.length = 64 ∧ (record (.trip 5) 0 262).body.severity < 1
        ∧ ∀ r ∈ [record (.clear 9) 3 263], ¬ r.body.severity < 1)
      ∧ ∀ r ∈ fullQueue.queue.records.tail, ¬ r.body.severity < 0 := by decide +kernel

/-- What waits and what may pass: a TRIP waits behind a STALE, and a STALE behind a CONFLICT of another work item; a STALE
passes the CONFLICT and the TRIP of its own work item. -/
theorem witness_SubmissionOrder :
    (∃ v ∈ [submission .channelUnit 1 false (.stale 4) 1], v.submitter ≠ .engine ∧ v.loose = false)
      ∧ (∃ v ∈ [submission .outputUnit 1 true (.conflict 2) 1], v.submitter ≠ .channelUnit ∧ v.item ≠ 2)
      ∧ ∀ v ∈ [submission .outputUnit 1 true (.conflict 2) 1, submission .engine 1 true (.trip 9) 0],
        v.submitter ≠ .channelUnit ∧ v.item = 1 ∧ v.loose = true := by decide +kernel

theorem witness_CaptureStepAppliesItsAction :
    (∀ action ∈ [CaptureAction.set, .add, .excess, .copy], ∀ v ∈ [(none : Option Half), some 812],
      ({ State.reset with
        captures := [.step { acc := 7, action := action, const := 5, value := v, limit := 700 }, .command] }).captures =
          .step { acc := 7, action := action, const := 5, value := v, limit := 700 } :: [.command])
      ∧ (asked .writeAcc 7 0 tripped).captures = .command :: [] := ⟨fun _ _ _ _ => rfl, rfl⟩

theorem witness_ArrivalsAreAcceptedOrRefused :
    delivered.port.delivered = { channel := 2, raw := 130, status := .good } :: []
      ∧ (delivered.inReset = false ∧ (15 : Fin 16).val = (0x3F : Byte).toNat % 16
        ∧ sampleStatusCode .fault = (0x3F : Byte).toNat / 16 % 4) := by decide +kernel

theorem witness_FreshnessExpiryMakesTheChannelStale :
    ((ticking (withChannel 2 { liveChannel with fresh := .running 1 } State.reset)).due.channels[2] = 0 + 1
        ∧ (ticking (withChannel 2 { liveChannel with fresh := .running 1 } State.reset)).channels[2].fresh = .running 1
        ∧ (ticking (withChannel 2 { liveChannel with fresh := .running 1 } State.reset)).channels[2].state = .live)
      ∧ ((withChannel 15 { liveChannel with fresh := .running 1, state := .stale } State.reset).channels[15].fresh =
          .running 1
        ∧ (withChannel 15 { liveChannel with fresh := .running 1, state := .stale } State.reset).channels[15].state =
          .stale) := by decide +kernel

/-- Channel 2 has a sample waiting for the engine. -/
def ripe : State :=
  withChannel 2 { liveChannel with slot := some (.sample 150 .good) } (watching entry)

/-- Entry 8 waits with both its claims, no table command with it. -/
def claiming : State :=
  watching { entry with state := .pendingTrip, condition := true, qual := .expired, shapeVoid := 1 }

theorem witness_EngineTakesClaimsInServiceOrder :
    (tripped.engine = .free ∧ blinking.engine ≠ .free)
      ∧ ((∀ m : Fin 32, m < 8 → NoClaim m claiming) ∧ claiming.engine = .free ∧ claiming.entries[8].qual = .expired)
      ∧ ((∀ m : Fin 32, m < 8 → NoClaim m { blinking with engine := .free }) ∧ blinking.entries[8].qual ≠ .expired
        ∧ blinking.entries[8].qualVoid = 0 ∧ blinking.entries[8].shape = .expired)
      ∧ ((∀ n : Fin 32, NoClaim n { asked .arm 0 0 ripe with engine := .free }) ∧ Command.arm.isTable = true
        ∧ Waits .arm { asked .arm 0 0 ripe with engine := .free })
      ∧ (ripe.engine = .free ∧ (∀ n : Fin 32, NoClaim n ripe) ∧ (∀ d : Command, d.isTable = true → ¬ Waits d ripe)
        ∧ ripe.channels[2].slot = some (.sample 150 .good)
        ∧ (2 : Fin 16) ≤ ripe.pointer ∧ (∀ d : Fin 16, ripe.pointer < d → ripe.channels[d].slot = none)
        ∧ ∀ d : Fin 16, d < 2 → ripe.channels[d].slot = none)
      ∧ ((1 : Fin 16) < 2 ∧ ∀ d : Fin 16, 1 < d → d < 2 → ripe.channels[d].slot = none)
      ∧ ((∀ n : Fin 32, NoClaim n tripped) ∧ (∀ d : Command, d.isTable = true → ¬ Waits d tripped)
        ∧ ∀ c : Fin 16, tripped.channels[c].slot = none)
      ∧ inEvaluation (asked .arm 0 0 ripe) = false
      ∧ ((settling .fault).engine ≠ .taken .table ∧ inReleaseAll (settling .fault) = false)
      ∧ (∀ n : Fin 32, ripe.engine ≠ .taken (.expiry n .qualification) ∧ ripe.engine ≠ .taken (.expiry n .shaping))
      ∧ ripe.engine ≠ .ending :=
  ⟨by decide +kernel, by decide +kernel, by decide +kernel, by decide +kernel,
    ⟨rfl, by decide +kernel, fun _ _ h => absurd h.1 (by decide), by decide +kernel⟩, by decide +kernel,
    ⟨by decide +kernel, fun _ _ h => absurd h.1 (by decide), by decide +kernel⟩, by decide +kernel, by decide +kernel,
    fun _ => ⟨nofun, nofun⟩, nofun⟩

theorem witness_GoodSampleSettlesIntoTheAverage :
    ((settling (.sample 150 .good)).engine = .settling 2 (.sample 150 .good)
        ∧ (settling (.sample 150 .good)).channels[2].state ≠ .off
        ∧ (settling (.sample 150 .good)).channels[2].ring.length ≤
            (settling (.sample 150 .good)).channels[2].cfg.avgLen.size
        ∧ Enters liveChannel.cfg 150 .good 140)
      ∧ Enters { liveChannel.cfg with overrangeAsLimit := true } 150 .overLow 0x8000 := by decide +kernel

theorem witness_InvalidSampleAndFaultItemGiveFaultInput :
    ((settling (.sample 160 .fault)).engine = .settling 2 (.sample 160 .fault)
        ∧ (settling (.sample 160 .fault)).channels[2].state ≠ .off ∧ CorrectedValue liveChannel.cfg 160 150)
      ∧ (settling .fault).engine = .settling 2 .fault ∧ liveChannel.cfg.overrangeAsLimit = false := by decide +kernel

/-- The engine is to handle entry 8 with an input. -/
def handling (e : Entry) (input : EvalInput) : State :=
  { watching e with engine := .handling 2 input 0 }

theorem witness_GoodValueMovesTheEntry :
    (OutputLaw (handling entry (.good 104)) ∧ HandlesNext 2 (.good 104) 0 8 (handling entry (.good 104)))
      ∧ HandlesNext 2 (.good 90) 0 8 cancelling := by
  and_intros <;> decide +kernel

theorem witness_FaultInputFollowsThePolicy :
    (OutputLaw (handling entry .fault) ∧ HandlesNext 2 .fault 0 8 (handling entry .fault))
      ∧ (entry.state ≠ .inhibited ∧ entry.cfg.faultPolicy = .hold)
      ∧ HandlesNext 2 .fault 0 8 (handling { entry with cfg := { config with faultPolicy := .trip } } .fault)
      ∧ HandlesNext 2 .fault 0 8 (handling { entry with cfg := { config with faultPolicy := .clear } } .fault) := by
  and_intros <;> decide +kernel

theorem witness_EvaluationHandlesEachBoundEntryInOrder :
    (handling entry (.good 104)).engine = .handling 2 (.good 104) 0
      ∧ (∀ n : Fin 32, 9 ≤ n.val → ¬ Bound 2 n (handling entry (.good 104)))
      ∧ (settling .fault).engine = .settling 2 .fault := by decide +kernel

/-- The engine has taken an expiry of entry 8. -/
def expiring (k : TimerKind) (e : Entry) : State :=
  { watching e with engine := .taken (.expiry 8 k) }

theorem witness_QualificationExpiryMovesTheEntryOn :
    (∀ e : Entry, (expiring .qualification e).engine = .taken (.expiry 8 .qualification))
      ∧ (expiring .qualification { entry with qualVoid := 1 }).entries[8].qualVoid = 0 + 1
      ∧ (∀ st ∈ [EntryState.pendingTrip, .pendingClear],
        OutputLaw (expiring .qualification { entry with state := st, qual := .expired })
          ∧ (expiring .qualification { entry with state := st, qual := .expired }).entries[8].qualVoid = 0
          ∧ (expiring .qualification { entry with state := st, qual := .expired }).entries[8].qual = .expired
          ∧ (expiring .qualification { entry with state := st, qual := .expired }).entries[8].state = st)
      ∧ (OutputLaw blocking ∧ (run .qualificationExpiryTaken blocking).engine = .ending) :=
  ⟨fun _ => rfl, by decide +kernel, by decide +kernel, by decide +kernel⟩

/-- Entry 8 with PULSE shaping, its expiry taken by the engine. -/
def pulsing : State :=
  { withEntry 8 { lineEntry with
      cfg := { lineEntry.cfg with shaping := .pulse, shapeTicks := 4 }, state := .tripped, shape := .expired } tripped with
    engine := .taken (.expiry 8 .shaping) }

theorem witness_ShapingExpiryEndsAPulseOrTogglesABlink :
    (expiring .shaping { entry with shapeVoid := 1 }).engine = .taken (.expiry 8 .shaping)
      ∧ (expiring .shaping { entry with shapeVoid := 1 }).entries[8].shapeVoid = 0 + 1
      ∧ (blinking.engine = .taken (.expiry 8 .shaping) ∧ OutputLaw blinking ∧ blinking.entries[8].shapeVoid = 0
        ∧ blinking.entries[8].shape = .expired ∧ blinking.entries[8].cfg.output = some 6
        ∧ blinking.entries[8].cfg.shaping = .blink)
      ∧ (pulsing.engine = .taken (.expiry 8 .shaping) ∧ OutputLaw pulsing ∧ pulsing.entries[8].shapeVoid = 0
        ∧ pulsing.entries[8].shape = .expired ∧ pulsing.entries[8].cfg.output = some 6
        ∧ pulsing.entries[8].cfg.shaping = .pulse) := by
  and_intros <;> decide +kernel

theorem witness_TickCountsDownAndExpiryRaisesTheClaim :
    tripped.inReset = false
      ∧ ((ticking tripped).due.timestamp = 0 + 1 ∧ (ticking tripped).due.timerBank = 0 + 1)
      ∧ (∀ n : Fin 32, (ticking tripped).entries[n].qual ≠ .running 0 ∧ (ticking tripped).entries[n].shape ≠ .running 0)
      ∧ (∀ c : Fin 16, (ticking tripped).channels[c].fresh ≠ .running 0)
      ∧ (watching { entry with qual := .running 1 }).entries[8].qual = .running 1
      ∧ (watching { entry with shape := .running 1 }).entries[8].shape = .running 1
      ∧ ((ticking (withChannel 2 { liveChannel with fresh := .running 1 } State.reset)).due.channels[2] ≠ 0
        ∧ (withChannel 2 { liveChannel with fresh := .running 1 } State.reset).channels[2].fresh = .running 1)
      ∧ (Index (2 : Fin 16) (asked .readChannel 2 0 tripped) ∧ 16 ≤ (asked .readChannel 16 0 tripped).cmd.captured0.toNat)
      ∧ (blinking.engine ≠ .free ∧ held.engine = .free
        ∧ (∀ n : Fin 32, held.entries[n].qual.expiring = false ∧ held.entries[n].shape.expiring = false)
        ∧ ∀ c : Fin 16, held.channels[c].fresh.expiring = false) := by
  and_intros <;> decide +kernel

/-- The port in IDLE. -/
def idlePort : State :=
  { State.reset with port := { Port.powerOn with reception := .idle, enabled := true } }

theorem witness_TwentyFourEdgesShiftTheFrameIn :
    (idlePort.inReset = false ∧ ¬ Waits .clearPortCounts idlePort ∧ idlePort.sfrm = false
        ∧ idlePort.port.reception = .idle)
      ∧ (received.port.reception = .receiving ∧ 24 ≤ received.port.bitCount ∧ ¬ Waits .clearPortCounts received)
      ∧ State.reset.port.reception = .disabled ∧ ¬ Waits .clearPortCounts State.reset ∧ (0 : Nat) < 24 := by decide

/-- SFRM is high and the port stands as given. -/
def framed (p : Port) : State :=
  { received with port := p }

theorem witness_FrameEndChecksAndDelivers :
    (received.inReset = false ∧ received.sfrm = true ∧ received.port.reception = .receiving
        ∧ received.port.bitCount = 24 ∧ received.port.shiftReg.getLsbD 23 = true
        ∧ ((List.finRange 24).countP (fun i => received.port.shiftReg.getLsbD i.val) % 2 == 1) = false)
      ∧ (framed { received.port with shiftReg := 0b0_0101_00_1111111011010100_0 }).port.shiftReg.getLsbD 23 = false
      ∧ ((framed { received.port with bitCount := 25 }).port.reception = .receiving
        ∧ (framed { received.port with bitCount := 25 }).port.bitCount ≠ 24)
      ∧ (framed { received.port with reception := .waitLow }).port.reception = .waitLow
      ∧ (framed Port.powerOn).port.reception = .disabled ∧ (framed Port.powerOn).sfrm = true := by decide +kernel

theorem witness_OutcomesAreCountedAndCountsCleared :
    (framed { Port.powerOn with outcomes := [.accepted] }).port.outcomes = .accepted :: []
      ∧ (framed { Port.powerOn with outcomes := [.refusedSource] }).port.outcomes = .refusedSource :: []
      ∧ (Waits .clearPortCounts (asked .clearPortCounts 0 0 idlePort) ∧ idlePort.inReset = false
        ∧ idlePort.sfrm = false) := by decide

theorem witness_WritesStoreWhatTheMapSays :
    State.reset.inReset = false ∧ State.reset.cmd.state ≠ .pending
      ∧ (asked .pop 0 0 State.reset).cmd.state = .pending ∧ (0x7F : Address).toNat ≥ 0x60
      ∧ (0x0F : Address).toNat ∈ [0x00, 0x01, 0x02, 0x04, 0x0A, 0x0B, 0x0F] := by decide

theorem witness_LatchesLoadFromTheLiveField :
    queued.inReset = false ∧ queued.queue.records = record (.trip 5) 2 200 :: [record .cutoff 3 201]
      ∧ State.reset.queue.records = [] ∧ queued.queue.records.length ≤ 64 ∧ (0x74 : Address).toNat ≥ 0x74
      ∧ ∀ x ∈ [(0x10 : Address), 0x20, 0x60, 0x62, 0x64, 0x66, 0x68, 0x6C, 0x70], (0x61 : Address) ≠ x := by decide

theorem witness_CmdOpIsTakenCompletedOrLost :
    (State.reset.inReset = false ∧ State.reset.cmd.state ≠ .pending)
      ∧ (∃ c : Command, (0x7F : Byte) = encodeOpcode c) ∧ Command.restart.isTable = true ∧ State.reset.engine = .free
      ∧ (¬ ∃ c : Command, (0x07 : Byte) = encodeOpcode c)
      ∧ (asked .pop 0 0 State.reset).cmd.state = .pending :=
  ⟨by decide, ⟨.restart, rfl⟩, rfl, rfl, by rintro ⟨c, h⟩; cases c <;> revert h <;> decide, by decide⟩

theorem witness_InterruptFlagsMaskAndPin : queued.inReset = false := by decide

theorem witness_PowerOnResetGivesThePowerOnValues : (powerOn lawful).inReset = true := by decide

theorem witness_ConditionBoundaries :
    hysteresisFits config = true ∧ hysteresisFits { config with hystSide := .tripSide } = true
      ∧ hysteresisFits { config with compare := .below } = true
      ∧ hysteresisFits { config with compare := .below, hystSide := .tripSide } = true
      ∧ hysteresisFits { config with compare := .inside } = true
      ∧ hysteresisFits { config with compare := .inside, hystSide := .tripSide, band := 5 } = true
      ∧ hysteresisFits { config with compare := .outside, band := 5 } = true
      ∧ hysteresisFits { config with compare := .outside, hystSide := .tripSide } = true
      ∧ activates config 100 99 = false ∧ releases config 100 99 = false
      ∧ (-32764 : Int) - config.hysteresis.toNat ≤ -32768 ∧ 32767 ≤ (32763 : Int) + config.hysteresis.toNat := by decide

end Sys2Proof.Tests
end

section
/-! PROOFS. The images of entries, channels and lines are laid out as their tables say and read back (O5); the range check
of WRITE_ENTRY (O6); and what READ_ENTRY and WRITE_ENTRY make of them (O22, O23). -/

namespace Sys2Proof.Images

open Sys2Proof.Machine Sys2Proof.Safety Sys2Proof.Claims

/-! ## Codes and reference bytes, read -/

theorem ofCode_eq_faultPolicy {k : Nat} {p : FaultPolicy} : FaultPolicy.ofCode k = some p ↔ k = p.code := by
  rcases k with _ | _ | _ | k <;> cases p <;> simp [FaultPolicy.ofCode, FaultPolicy.code]

theorem ofCode_eq_shaping {k : Nat} {p : Shaping} : Shaping.ofCode k = some p ↔ k = p.code := by
  rcases k with _ | _ | _ | k <;> cases p <;> simp [Shaping.ofCode, Shaping.code]

theorem ofCode_eq_captureEdge {k : Nat} {p : CaptureEdge} : CaptureEdge.ofCode k = some p ↔ k = p.code := by
  rcases k with _ | _ | _ | k <;> cases p <;> simp [CaptureEdge.ofCode, CaptureEdge.code]

theorem ofCode_eq_source {k : Nat} {p : Source} : Source.ofCode k = some p ↔ k = p.code := by
  rcases k with _ | _ | _ | k <;> cases p <;> simp [Source.ofCode, Source.code]

/-- Every two-bit code names a compare kind (R7), a capture action, an averaging length. -/
theorem ofCode_eq_compare {k : Nat} {p : Compare} (hk : k < 4) : Compare.ofCode k = p ↔ k = p.code := by
  cases p <;> interval_cases k <;> decide

theorem ofCode_eq_captureAction {k : Nat} {p : CaptureAction} (hk : k < 4) : CaptureAction.ofCode k = p ↔ k = p.code := by
  cases p <;> interval_cases k <;> decide

theorem ofCode_eq_avgLen {k : Nat} {p : AvgLen} (hk : k < 4) : AvgLen.ofCode k = p ↔ k = p.code := by
  cases p <;> interval_cases k <;> decide

/-- A reference byte reads as `r` exactly when it is the byte of `r` (R4). -/
theorem parseRef_eq_some {k : Nat} (hk : k ≤ 255) {b : Byte} {r : Option (Fin k)} :
    parseRef k b = some r ↔ RefByte b r := by
  unfold parseRef RefByte
  cases r with
  | none => split <;> simp_all
  | some i =>
    split
    · next h =>
      subst h
      simp
      omega
    · simp [indexOf_eq_some]

/-- A 16-bit field is above 32767 exactly when the high bit of its high byte is set (R7). -/
theorem halfOf_le_iff {low high : Byte} : (halfOf low high).toNat ≤ 32767 ↔ ¬ 0x80 ≤ high.toNat := by
  rw [halfOf_toNat]
  omega

theorem halfOf_eq_zero_iff {low high : Byte} : halfOf low high = 0 ↔ low = 0 ∧ high = 0 := by
  rw [← BitVec.toNat_inj, ← BitVec.toNat_inj, ← BitVec.toNat_inj, halfOf_toNat]
  simp
  omega

/-- A one-bit code read as a side: TRIP_SIDE is 1 (Table 1-1). -/
theorem side_eq_iff {b : Bool} {p : HystSide} :
    (if b then HystSide.tripSide else .releaseSide) = p ↔ (b = true ↔ p = .tripSide) := by
  cases b <;> cases p <;> decide

/-- A one-bit code read as a polarity: active low is 1 (Table 5-3). -/
theorem polarity_eq_iff {b : Bool} {p : Polarity} :
    (if b then Polarity.activeLow else .activeHigh) = p ↔ (b = true ↔ p = .activeLow) := by
  cases b <;> cases p <;> decide

/-- A two-bit field taken out of a byte. -/
theorem ofNat_two_eq_iff {k : Nat} {x : BitVec 2} : BitVec.ofNat 2 k = x ↔ k % 4 = x.toNat := by
  rw [← BitVec.toNat_inj, BitVec.toNat_ofNat]

/-! ## The entry image -/

/-- Bytes 0 to 21 as the range check reads them (Table 1-3): every field of the configuration is what its bytes spell. -/
theorem entryBytes_iff {b : Vector Byte 32} {c : EntryConfig} :
    EntryBytes b c ↔
      b[0].toNat % 16 = c.channel.val
        ∧ FaultPolicy.ofCode (b[0].toNat / 16 % 4) = some c.faultPolicy
        ∧ Compare.ofCode (b[1].toNat % 4) = c.compare
        ∧ (if hasBit b[1] 2 then HystSide.tripSide else .releaseSide) = c.hystSide
        ∧ hasBit b[1] 3 = c.latch ∧ hasBit b[1] 4 = c.startInhibit ∧ hasBit b[1] 5 = c.eventTrip
        ∧ hasBit b[1] 6 = c.eventClear
        ∧ halfOf b[2] b[3] = c.limit ∧ halfOf b[4] b[5] = c.band ∧ halfOf b[6] b[7] = c.hysteresis
        ∧ parseRef 32 b[8] = some c.track ∧ halfOf b[9] b[10] = c.trackOffset
        ∧ halfOf b[11] b[12] = c.onDelay ∧ halfOf b[13] b[14] = c.offDelay
        ∧ parseRef 16 b[15] = some c.output
        ∧ Shaping.ofCode (b[16].toNat % 4) = some c.shaping
        ∧ CaptureEdge.ofCode (b[16].toNat / 4 % 4) = some c.captureEdge
        ∧ CaptureAction.ofCode (b[16].toNat / 16 % 4) = c.captureAction
        ∧ BitVec.ofNat 2 (b[16].toNat / 64) = c.severity
        ∧ halfOf b[17] b[18] = c.shapeTicks ∧ parseRef 8 b[19] = some c.captureAcc
        ∧ halfOf b[20] b[21] = c.captureConst := by
  have hsev : b[16].toNat / 64 % 4 = b[16].toNat / 64 := Nat.mod_eq_of_lt (by omega)
  rw [ofCode_eq_faultPolicy, ofCode_eq_compare (Nat.mod_lt _ (by decide)), side_eq_iff, parseRef_eq_some (by decide),
    parseRef_eq_some (by decide), ofCode_eq_shaping, ofCode_eq_captureEdge,
    ofCode_eq_captureAction (Nat.mod_lt _ (by decide)), ofNat_two_eq_iff, hsev, parseRef_eq_some (by decide)]
  rfl

/-- The bounds the range check sets to the fields of a configuration (R7). -/
abbrev InRange (c : EntryConfig) : Prop :=
  c.band.toNat ≤ 32767 ∧ c.hysteresis.toNat ≤ 32767 ∧ (c.shaping ≠ .level → c.shapeTicks ≠ 0)

/-- The range check passes and gives `c` exactly when bytes 0 to 21 are those of `c` and `c` is in range (R4, R7). -/
theorem parseEntry_eq_some {b : Vector Byte 32} {c : EntryConfig} :
    parseEntry b = some c ↔ EntryBytes b c ∧ InRange c := by
  rw [entryBytes_iff]
  constructor
  · intro h
    unfold parseEntry at h
    split at h
    · next hp hs he ht ho ha =>
      simp only [Option.ite_none_left_eq_some, Option.some.injEq, Bool.or_eq_true, Bool.and_eq_true, decide_eq_true_iff,
        bne_iff_ne, beq_iff_eq, not_or, not_and, Nat.not_lt] at h
      obtain ⟨⟨⟨hband, hhyst⟩, hticks⟩, rfl⟩ := h
      exact ⟨⟨rfl, hp, rfl, rfl, rfl, rfl, rfl, rfl, rfl, rfl, rfl, ht, rfl, rfl, rfl, ho, hs, he, rfl, rfl, rfl, ha, rfl⟩,
        hband, hhyst, hticks⟩
    · cases h
  · rintro ⟨⟨hchannel, hp, hcompare, hside, hlatch, hinhibit, htrip, hclear, hlimit, hb, hh, ht, hoffset, hon, hoff, ho,
      hs, he, haction, hseverity, hst, ha, hconst⟩, hband, hhyst, hticks⟩
    have hrange : ¬ (32767 < c.band.toNat || 32767 < c.hysteresis.toNat
        || (c.shaping != .level && c.shapeTicks == 0)) = true := by
      simpa [not_or, Nat.not_lt] using ⟨⟨hband, hhyst⟩, hticks⟩
    simp only [parseEntry, hchannel, hp, hcompare, hside, hlatch, hinhibit, htrip, hclear, hlimit, hb, hh, ht, hoffset,
      hon, hoff, ho, hs, he, haction, hseverity, hst, ha, hconst]
    exact if_neg hrange

/-- A two-bit code of three values names nothing exactly when it is 3 (R7). -/
theorem ofCode_eq_none {k : Nat} (hk : k < 4) :
    (k = 3 ↔ FaultPolicy.ofCode k = none) ∧ (k = 3 ↔ Shaping.ofCode k = none) ∧ (k = 3 ↔ CaptureEdge.ofCode k = none) := by
  interval_cases k <;> decide

/-- A reference byte names nothing in range exactly when it lies above the highest index and below 0xFF (R7). -/
theorem reference_out_of_range {k : Nat} {b : Byte} : k ≤ b.toNat ∧ b.toNat ≤ 254 ↔ parseRef k b = none := by
  rw [parseRef_eq_none, and_comm]
  refine and_congr_left fun _ => ?_
  rw [ne_eq, ← BitVec.toNat_inj]
  simp
  omega

/-- LEVEL is the shaping mode of code 0 (Table 1-1). -/
theorem level_iff {k : Nat} {p : Shaping} (h : k = p.code) : k = 0 ↔ p = .level := by
  subst h
  cases p <;> decide

/-- The range check fails exactly on the listed contents (R7). -/
theorem parseEntry_eq_none {b : Vector Byte 32} : parseEntry b = none ↔ OutOfRange b := by
  have two (k : Nat) : k % 4 < 4 := Nat.mod_lt _ (by decide)
  rw [OutOfRange, (ofCode_eq_none (two _)).1, (ofCode_eq_none (two _)).2.1, (ofCode_eq_none (two _)).2.2,
    reference_out_of_range, reference_out_of_range, reference_out_of_range]
  unfold parseEntry
  split
  · next hp hs he ht ho ha =>
    have hzero : b[16].toNat % 4 ≠ 0 ↔ _ ≠ Shaping.level := not_congr (level_iff (ofCode_eq_shaping.mp hs))
    have high (low high : Byte) : 32767 < (halfOf low high).toNat ↔ 0x80 ≤ high.toNat := by
      rw [← not_le, halfOf_le_iff, not_not]
    rw [hp, hs, he, ht, ho, ha, hzero, ← halfOf_eq_zero_iff]
    simp [high, or_assoc, imp_iff_not_or]
  · next hno =>
    refine iff_of_true rfl ?_
    by_contra h
    simp only [not_or, ← ne_eq, Option.ne_none_iff_exists'] at h
    obtain ⟨⟨_, hp⟩, ⟨_, hs⟩, ⟨_, he⟩, -, -, ⟨_, ht⟩, ⟨_, ho⟩, ⟨_, ha⟩, -⟩ := h
    exact hno _ _ _ _ _ _ hp hs he ht ho ha

/-- A configuration whose bytes pass the range check is in range. -/
theorem inRange_of_entryBytes {b : Vector Byte 32} {c : EntryConfig} (hb : EntryBytes b c) (hr : ¬ OutOfRange b) :
    InRange c := by
  simp only [OutOfRange, not_or] at hr
  obtain ⟨-, -, -, h5, h7, -, -, -, hticks⟩ := hr
  rw [entryBytes_iff] at hb
  obtain ⟨-, -, -, -, -, -, -, -, -, hband, hhyst, -, -, -, -, -, hs, -, -, -, hst, -, -⟩ := hb
  rw [InRange, ← hband, ← hhyst, ← hst, ne_eq, ne_eq, halfOf_eq_zero_iff,
    ← level_iff (ofCode_eq_shaping.mp hs)]
  exact ⟨halfOf_le_iff.mpr h5, halfOf_le_iff.mpr h7, fun hl hz => hticks ⟨hl, hz⟩⟩

/-- A lawful configuration spelt by bytes passes the range check and reads back (R5). -/
theorem parseEntry_of_entryBytes {b : Vector Byte 32} {c : EntryConfig} (hb : EntryBytes b c) (hc : ConfigLaw c) :
    parseEntry b = some c :=
  parseEntry_eq_some.mpr ⟨hb, hc.1, hc.2.1, hc.2.2.1⟩

/-- A flag among the bits of a byte, as a number. -/
theorem bit_eq (f : Bool) (k : Nat) : bit f k = 2 ^ k * f.toNat := by
  cases f <;> simp [bit]

/-- Bit k of a byte, from the byte as a number. -/
theorem getLsbD_eq_of_toNat {b : Byte} {k : Nat} {f : Bool} (h : b.toNat / 2 ^ k % 2 = f.toNat) : b.getLsbD k = f := by
  rw [← BitVec.testBit_toNat, Nat.testBit_eq_decide_div_mod_eq, h]
  cases f <;> rfl

/-- The codes of a configuration fit into their fields (Table 1-1). -/
theorem code_lt (c : EntryConfig) :
    c.faultPolicy.code < 3 ∧ c.compare.code < 4 ∧ c.shaping.code < 3 ∧ c.captureEdge.code < 3
      ∧ c.captureAction.code < 4 := by
  refine ⟨?_, ?_, ?_, ?_, ?_⟩
  · cases c.faultPolicy <;> decide
  · cases c.compare <;> decide
  · cases c.shaping <;> decide
  · cases c.captureEdge <;> decide
  · cases c.captureAction <;> decide

theorem configFlag_le (c : EntryConfig) :
    (c.hystSide == .tripSide).toNat ≤ 1 ∧ c.latch.toNat ≤ 1 ∧ c.startInhibit.toNat ≤ 1 ∧ c.eventTrip.toNat ≤ 1
      ∧ c.eventClear.toNat ≤ 1 :=
  ⟨Bool.toNat_le _, Bool.toNat_le _, Bool.toNat_le _, Bool.toNat_le _, Bool.toNat_le _⟩

theorem runtimeFlag_le (e : Entry) (mark : Bool) :
    e.condition.toNat ≤ 1 ∧ e.lastValue.isSome.toNat ≤ 1 ∧ mark.toNat ≤ 1 ∧ e.shape.loaded.toNat ≤ 1
      ∧ e.phase.toNat ≤ 1 :=
  ⟨Bool.toNat_le _, Bool.toNat_le _, Bool.toNat_le _, Bool.toNat_le _, Bool.toNat_le _⟩

/-- Byte 0 of an entry image, as a number (Table 1-3). -/
theorem entryImage_byte_0 (e : Entry) (mark : Bool) :
    (entryImage e mark)[0].toNat = e.cfg.channel.val + 16 * e.cfg.faultPolicy.code := by
  obtain ⟨hp, -⟩ := code_lt e.cfg
  refine (BitVec.toNat_ofNat ..).trans (Nat.mod_eq_of_lt ?_)
  omega

/-- Byte 1 of an entry image, as a number (Table 1-3). -/
theorem entryImage_byte_1 (e : Entry) (mark : Bool) :
    (entryImage e mark)[1].toNat = e.cfg.compare.code + 4 * (e.cfg.hystSide == .tripSide).toNat + 8 * e.cfg.latch.toNat
      + 16 * e.cfg.startInhibit.toNat + 32 * e.cfg.eventTrip.toNat + 64 * e.cfg.eventClear.toNat := by
  obtain ⟨-, hc, -⟩ := code_lt e.cfg
  obtain ⟨_, _, _, _, _⟩ := configFlag_le e.cfg
  refine (BitVec.toNat_ofNat ..).trans ?_
  simp only [bit_eq]
  omega

/-- Byte 16 of an entry image, as a number (Table 1-3). -/
theorem entryImage_byte_16 (e : Entry) (mark : Bool) :
    (entryImage e mark)[16].toNat = e.cfg.shaping.code + 4 * e.cfg.captureEdge.code + 16 * e.cfg.captureAction.code
      + 64 * e.cfg.severity.toNat := by
  obtain ⟨-, -, hs, he, ha⟩ := code_lt e.cfg
  have := e.cfg.severity.isLt
  refine (BitVec.toNat_ofNat ..).trans (Nat.mod_eq_of_lt ?_)
  omega

/-- Byte 23 of an entry image, as a number (Table 1-3). -/
theorem entryImage_byte_23 (e : Entry) (mark : Bool) :
    (entryImage e mark)[23].toNat = e.condition.toNat + 2 * e.lastValue.isSome.toNat + 4 * mark.toNat
      + 8 * e.shape.loaded.toNat + 16 * e.phase.toNat := by
  obtain ⟨_, _, _, _, _⟩ := runtimeFlag_le e mark
  refine (BitVec.toNat_ofNat ..).trans ?_
  simp only [bit_eq]
  omega

/-- Unused bits of an entry image read 0 (R4). -/
theorem entryImage_unused (e : Entry) (mark : Bool) :
    (entryImage e mark)[0].toNat < 64 ∧ (entryImage e mark)[1].toNat < 128 ∧ (entryImage e mark)[23].toNat < 32 := by
  obtain ⟨hp, hc, -⟩ := code_lt e.cfg
  have hchannel := e.cfg.channel.isLt
  obtain ⟨_, _, _, _, _⟩ := configFlag_le e.cfg
  obtain ⟨_, _, _, _, _⟩ := runtimeFlag_le e mark
  rw [entryImage_byte_0, entryImage_byte_1, entryImage_byte_23]
  exact ⟨by omega, by omega, by omega⟩

/-- The flags of byte 23 of an entry image (Table 1-3). -/
theorem entryImage_flags (e : Entry) (mark : Bool) :
    (entryImage e mark)[23].getLsbD 0 = e.condition ∧ (entryImage e mark)[23].getLsbD 1 = e.lastValue.isSome
      ∧ (entryImage e mark)[23].getLsbD 2 = mark ∧ (entryImage e mark)[23].getLsbD 3 = e.shape.loaded
      ∧ (entryImage e mark)[23].getLsbD 4 = e.phase := by
  have h := entryImage_byte_23 e mark
  obtain ⟨_, _, _, _, _⟩ := runtimeFlag_le e mark
  and_intros <;> exact getLsbD_eq_of_toNat (by omega)

/-- Bytes 0 to 21 of an entry image are laid out as Table 1-3 says. -/
theorem entryBytes_entryImage (e : Entry) (mark : Bool) : EntryBytes (entryImage e mark) e.cfg := by
  obtain ⟨hp, hc, hs, he, ha⟩ := code_lt e.cfg
  have h0 := entryImage_byte_0 e mark
  have h1 := entryImage_byte_1 e mark
  have h16 := entryImage_byte_16 e mark
  obtain ⟨_, _, _, _, _⟩ := configFlag_le e.cfg
  have hsev := e.cfg.severity.isLt
  have hch := e.cfg.channel.isLt
  rw [entryBytes_iff, ofCode_eq_faultPolicy, ofCode_eq_compare (Nat.mod_lt _ (by decide)), ofCode_eq_shaping,
    ofCode_eq_captureEdge, ofCode_eq_captureAction (Nat.mod_lt _ (by decide)), ofNat_two_eq_iff, h0, h16]
  have hsidebit : hasBit (entryImage e mark)[1] 2 = (e.cfg.hystSide == .tripSide) := getLsbD_eq_of_toNat (by omega)
  refine ⟨by omega, by omega, by omega, ?_, getLsbD_eq_of_toNat (by omega), getLsbD_eq_of_toNat (by omega),
    getLsbD_eq_of_toNat (by omega), getLsbD_eq_of_toNat (by omega), halfOf_bytes _, halfOf_bytes _, halfOf_bytes _,
    parseRef_refByte (by decide) _, halfOf_bytes _, halfOf_bytes _, halfOf_bytes _, parseRef_refByte (by decide) _,
    by omega, by omega, by omega, by omega, halfOf_bytes _, parseRef_refByte (by decide) _, halfOf_bytes _⟩
  rw [hsidebit, side_eq_iff, beq_iff_eq]

/-- Only bytes 0 to 21 spell the configuration (R4). -/
theorem entryBytes_congr {b b' : Vector Byte 32} {c : EntryConfig} (h : ∀ i : Fin 32, i.val < 22 → b[i] = b'[i])
    (hb : EntryBytes b' c) : EntryBytes b c := by
  have at_index (k : Nat) (hk : k < 22) : b[k] = b'[k] := h ⟨k, by omega⟩ hk
  simpa only [EntryBytes, at_index, Nat.reduceLT] using hb

/-! ## The channel image -/

/-- A proposal for a channel is read as Table 7-5 says; its source code names one of three (R139). -/
theorem parseChannel_eq_some {b : Vector Byte 32} {c : ChannelConfig} : parseChannel b = some c ↔ ChannelBytes b c := by
  have hbytes : ChannelBytes b c ↔ Source.ofCode (b[0].toNat % 4) = some c.source
      ∧ AvgLen.ofCode (b[0].toNat / 4 % 4) = c.avgLen ∧ BitVec.ofNat 2 (b[0].toNat / 16) = c.faultSeverity
      ∧ hasBit b[0] 6 = c.faultEvents ∧ hasBit b[0] 7 = c.overrangeAsLimit
      ∧ halfOf b[1] b[2] = c.zeroOffset ∧ halfOf b[3] b[4] = c.freshWindow := by
    rw [ofCode_eq_source, ofCode_eq_avgLen (Nat.mod_lt _ (by decide)), ofNat_two_eq_iff]
    rfl
  rw [hbytes, parseChannel]
  constructor
  · intro h
    split at h
    · next hs =>
      cases h
      exact ⟨hs, rfl, rfl, rfl, rfl, rfl, rfl⟩
    · cases h
  · rintro ⟨hs, havg, hsev, hevents, hover, hzero, hfresh⟩
    rw [hs, havg, hsev, hevents, hover, hzero, hfresh]

/-- Byte 0 of a channel image, as a number (Table 7-5). -/
theorem channelImage_byte_0 (ch : Channel) (mark : Bool) :
    (channelImage ch mark)[0].toNat = ch.cfg.source.code + 4 * ch.cfg.avgLen.code + 16 * ch.cfg.faultSeverity.toNat
      + 64 * ch.cfg.faultEvents.toNat + 128 * ch.cfg.overrangeAsLimit.toNat := by
  have hs : ch.cfg.source.code < 3 := by cases ch.cfg.source <;> decide
  have ha : ch.cfg.avgLen.code < 4 := by cases ch.cfg.avgLen <;> decide
  have := ch.cfg.faultSeverity.isLt
  have := Bool.toNat_le ch.cfg.faultEvents
  have := Bool.toNat_le ch.cfg.overrangeAsLimit
  refine (BitVec.toNat_ofNat ..).trans ?_
  simp only [bit_eq]
  omega

/-- Bytes 0 to 4 of a channel image are laid out as Table 7-5 says. -/
theorem channelBytes_channelImage (ch : Channel) (mark : Bool) : ChannelBytes (channelImage ch mark) ch.cfg := by
  have h0 := channelImage_byte_0 ch mark
  have hs : ch.cfg.source.code < 3 := by cases ch.cfg.source <;> decide
  have ha : ch.cfg.avgLen.code < 4 := by cases ch.cfg.avgLen <;> decide
  have hsev := ch.cfg.faultSeverity.isLt
  have hevents := Bool.toNat_le ch.cfg.faultEvents
  have hover := Bool.toNat_le ch.cfg.overrangeAsLimit
  have hsource : (channelImage ch mark)[0].toNat % 4 = ch.cfg.source.code := by omega
  have havg : (channelImage ch mark)[0].toNat / 4 % 4 = ch.cfg.avgLen.code := by omega
  exact ⟨hsource, havg, by omega, getLsbD_eq_of_toNat (by omega), getLsbD_eq_of_toNat (by omega), halfOf_bytes _,
    halfOf_bytes _⟩

theorem channelBytes_congr {b b' : Vector Byte 32} {c : ChannelConfig} (h : ∀ i : Fin 32, i.val < 5 → b[i] = b'[i])
    (hb : ChannelBytes b' c) : ChannelBytes b c := by
  have at_index (k : Nat) (hk : k < 5) : b[k] = b'[k] := h ⟨k, by omega⟩ hk
  simpa only [ChannelBytes, at_index, Nat.reduceLT] using hb

/-! ## The line image -/

/-- A proposal for a line is read as Table 5-3 says (R105). -/
theorem parseLine_eq {b : Byte} {p : LineProposal} : parseLine b = p ↔ LineByte b p := by
  obtain ⟨polarity, cutMember, conflictEvent, exclusive, conflictSeverity⟩ := p
  rw [parseLine, LineProposal.mk.injEq, polarity_eq_iff, ofNat_two_eq_iff]
  rfl

/-- Byte 0 of a line image is laid out as Table 5-3 says. -/
theorem lineByte_lineImage (ln : Line) (exclusive mark : Bool) :
    LineByte (lineImage ln exclusive mark)[0]
      { polarity := ln.polarity, cutMember := ln.cutMember, conflictEvent := ln.conflictEvent, exclusive := exclusive,
        conflictSeverity := ln.conflictSeverity } := by
  have hpol := Bool.toNat_le (ln.polarity == .activeLow)
  have hcut := Bool.toNat_le ln.cutMember
  have hevent := Bool.toNat_le ln.conflictEvent
  have hexcl := Bool.toNat_le exclusive
  have hsev := ln.conflictSeverity.isLt
  have h0 : (lineImage ln exclusive mark)[0].toNat = (ln.polarity == .activeLow).toNat + 2 * ln.cutMember.toNat
      + 4 * ln.conflictEvent.toNat + 8 * exclusive.toNat + 16 * ln.conflictSeverity.toNat := by
    refine (BitVec.toNat_ofNat ..).trans ?_
    simp only [bit_eq]
    omega
  have hlow : (lineImage ln exclusive mark)[0].getLsbD 0 = (ln.polarity == .activeLow) :=
    getLsbD_eq_of_toNat (by omega)
  dsimp only [LineByte]
  refine ⟨?_, getLsbD_eq_of_toNat (by omega), getLsbD_eq_of_toNat (by omega), getLsbD_eq_of_toNat (by omega), by omega⟩
  rw [hlow, beq_iff_eq]

/-- Settles O5: what the parsers read is what the tables lay out, and the images are laid out so. -/
theorem imagesReadBack : Obligations.ImagesReadBack := by
  refine ⟨⟨fun e mark b hc hb => ?_, entryBytes_entryImage, fun b c hr => ?_⟩,
    ⟨fun ch mark b hb => ?_, channelBytes_channelImage, fun b c => parseChannel_eq_some⟩,
    fun ln exclusive mark => parseLine_eq.mpr (lineByte_lineImage ln exclusive mark), fun b p => parseLine_eq⟩
  · exact parseEntry_of_entryBytes (entryBytes_congr hb (entryBytes_entryImage e mark)) hc
  · exact parseEntry_eq_some.trans ⟨And.left, fun h => ⟨h, inRange_of_entryBytes h hr⟩⟩
  · exact parseChannel_eq_some.mpr (channelBytes_congr hb (channelBytes_channelImage ch mark))

/-! ## READ_ENTRY and WRITE_ENTRY -/

theorem tableReady_of_served {c : Command} {s : State} (h : Served c s) : tableReady c s = true :=
  tableReady_iff.mpr ⟨h.2, h.1⟩

theorem entryArg_of_index {s : State} {n : Fin 32} (h : Index n s) : entryArg s = some n :=
  indexOf_eq_some.mpr h

/-- A table command that is served completes, and the engine comes free (R39, R168). -/
theorem endService_eq_served (r : Result) (s : State) : endService r s = served r s := rfl

/-- READ_ENTRY of an entry, served (R5). -/
theorem readEntry_served {s : State} {n : Fin 32} (hs : Served .readEntry s) (hn : Index n s) :
    exec .readEntry s =
      .next (served .ok { s with staging := entryImage s.entries[n] (s.queue.marks.entry[n]) }) := by
  rw [exec, execReadEntry, if_pos (tableReady_of_served hs), entryArg_of_index hn]
  rfl

/-- WRITE_ENTRY of an entry with an image out of range, served (R7). -/
theorem writeEntry_outOfRange {s : State} {n : Fin 32} (hs : Served .writeEntry s) (hn : Index n s)
    (hr : OutOfRange s.cmd.seen) : exec .writeEntry s = .next (served .badField s) := by
  rw [exec, execWriteEntry, if_pos (tableReady_of_served hs), entryArg_of_index hn]
  dsimp only
  rw [parseEntry_eq_none.mpr hr, endService_eq_served]

/-- WRITE_ENTRY of an entry with an image in range, served: the checks that are left decide (R6). -/
theorem writeEntry_inRange {s : State} {n : Fin 32} {c : EntryConfig} (hs : Served .writeEntry s) (hn : Index n s)
    (hp : parseEntry s.cmd.seen = some c) :
    exec .writeEntry s = .next (match writeEntryRefusal n c s with
      | some r => served r s
      | none => served .ok { s with entries := s.entries.set n { s.entries[n] with cfg := c } }) := by
  rw [exec, execWriteEntry, if_pos (tableReady_of_served hs), entryArg_of_index hn]
  dsimp only
  rw [hp]
  dsimp only
  cases writeEntryRefusal n c s <;> rfl

/-- Settles O6: the range check fails on the list of R7, and BAD_FIELD is what WRITE_ENTRY then completes with. -/
theorem entryRangeCheck : Obligations.EntryRangeCheck :=
  ⟨fun _ => parseEntry_eq_none, fun _ _ hs hn hr => writeEntry_outOfRange hs hn hr⟩

/-- Settles O22: the image READ_ENTRY writes, byte by byte. -/
theorem readEntryWritesTheImage : Obligations.ReadEntryWritesTheImage := by
  intro s n hs hn
  have hbytes := entryBytes_entryImage s.entries[n] s.queue.marks.entry[n]
  obtain ⟨h0, h1, h23⟩ := entryImage_unused s.entries[n] s.queue.marks.entry[n]
  obtain ⟨hcond, hlast, hmark, hshape, hphase⟩ := entryImage_flags s.entries[n] s.queue.marks.entry[n]
  refine ⟨_, readEntry_served hs hn, hbytes, parseEntry_of_entryBytes hbytes, h0, h1, h23, ?_, hcond, hlast, hmark,
    hshape.trans ?_, hphase, (halfOf_bytes _).trans ?_, halfOf_bytes _, halfOf_bytes _, halfOf_bytes _⟩
  · change (BitVec.ofNat 8 s.entries[n].state.code).toNat = _
    cases s.entries[n].state <;> rfl
  · cases s.entries[n].shape <;> rfl
  · cases s.entries[n].qual <;> rfl

/-- R8: the check of the hysteresis fails exactly when it is too wide. -/
theorem hysteresisFits_eq_false {c : EntryConfig} : hysteresisFits c = false ↔ HysteresisTooWide c := by
  unfold hysteresisFits HysteresisTooWide
  cases hc : c.compare <;> cases hs : c.hystSide <;> simp

/-- R11: the fixed fields are compared one by one. -/
theorem sameFixed_iff {a b : EntryConfig} : sameFixed a b = true ↔ FixedFieldsEqual a b := by
  obtain ⟨⟩ := a
  obtain ⟨⟩ := b
  simp [sameFixed, FixedFieldsEqual]

/-- R9: the tracking check fails exactly in the three cases. -/
theorem trackFits_eq_false {n : Fin 32} {t : Option (Fin 32)} {s : State} : trackFits n t s = false ↔ TrackTooDeep n t s := by
  unfold trackFits TrackTooDeep
  cases t with
  | none => simp
  | some t => simp [or_assoc, imp_iff_not_or]

/-- Checks 3 to 5 of WRITE_ENTRY in their order (Table 1-4). -/
theorem writeEntryRefusal_eq (n : Fin 32) (c : EntryConfig) (s : State) :
    writeEntryRefusal n c s =
      if HysteresisTooWide c then some .badField
      else if s.entries[n].state ≠ .disarmed ∧ ¬ FixedFieldsEqual s.entries[n].cfg c then some .armed
      else if TrackTooDeep n c.track s then some .trackDepth
      else none := by
  simp only [writeEntryRefusal, ← hysteresisFits_eq_false, ← sameFixed_iff, ← trackFits_eq_false, Bool.not_eq_true',
    Bool.and_eq_true, bne_iff_ne, Bool.not_eq_true]

/-- Settles O23: checks 3 to 5 of Table 1-4 in their order, and the store. -/
theorem writeEntryChecksInOrderAndStores : Obligations.WriteEntryChecksInOrderAndStores := by
  intro s n c hs hn hr hb
  have hp : parseEntry s.cmd.seen = some c := parseEntry_eq_some.mpr ⟨hb, inRange_of_entryBytes hb hr⟩
  rw [writeEntry_inRange hs hn hp, writeEntryRefusal_eq]
  refine ⟨fun hw => ?_, fun hw harmed hfix => ?_, fun hw hfix htrack => ?_, fun hw hfix htrack => ?_⟩
  · rw [if_pos hw]
  · rw [if_neg hw, if_pos ⟨harmed, hfix⟩]
  · rw [if_neg hw, if_neg fun h => h.2 (hfix h.1), if_pos htrack]
  · rw [if_neg hw, if_neg fun h => h.2 (hfix h.1), if_neg htrack]

end Sys2Proof.Images
end

section
/-! PROOFS. The laws of the watch table are kept by every step (O9). First what each operation does to one entry, up to
the work of the engine on it; then what leaves the table alone; then the operations that reach it; then the commands. -/

namespace Sys2Proof.WatchTable

open Sys2Proof.Machine Sys2Proof.Safety Sys2Proof.Claims Sys2Proof.Images

/-! ## Laws of one entry -/

/-- The flag of an entry is in step with a state (R27). -/
abbrev FlagFits (st : EntryState) (flag : Bool) : Prop :=
  (st = .normal ∨ st = .pendingClear ∨ st = .held → flag = false) ∧ (st = .pendingTrip ∨ st = .tripped → flag = true)

/-- An entry that has moved to a state other than INHIBITED is lawful when its qualification timer, its condition flag
and its latch are as that state asks. -/
theorem moved_entryLaw {e : Entry} {st : EntryState} {qual : Timer} {void : Nat} {flag : Bool} (hc : ConfigLaw e.cfg)
    (hshape : e.shape ≠ .running 0) (hcond : e.condition = flag) (hi : st ≠ .inhibited) (hf : FlagFits st flag)
    (hload : qual.loaded = decide (st = .pendingTrip ∨ st = .pendingClear)) (hqual : qual ≠ .running 0)
    (hheld : st = .held → e.cfg.latch = true) :
    EntryLaw { e with state := st, qual := qual, qualVoid := void } :=
  ⟨hc, ⟨by rw [hload, decide_eq_true_iff], hqual, hshape⟩, hcond ▸ hf, fun h => absurd h hi, hheld⟩

/-- `e'` is `e` but for its shaping timer and phase, and a timer that moved is unloaded, or loaded with the shape_ticks of
a PULSE or BLINK (R85 to R90). -/
def ShapingMove (e e' : Entry) : Prop :=
  ∃ (shape : Timer) (void : Nat) (phase : Bool), e' = { e with shape := shape, shapeVoid := void, phase := phase }
    ∧ (shape = e.shape ∨ shape = .unloaded ∨ e.cfg.shaping ≠ .level ∧ shape = .running e.cfg.shapeTicks)

theorem ShapingMove.refl (e : Entry) : ShapingMove e e :=
  ⟨e.shape, e.shapeVoid, e.phase, rfl, .inl rfl⟩

theorem ShapingMove.state {e e' : Entry} (h : ShapingMove e e') : e'.state = e.state := by
  obtain ⟨shape, void, phase, rfl, -⟩ := h
  rfl

/-- The output unit's events keep an entry lawful, unless it is INHIBITED, whose timer they may not load (R46). -/
theorem ShapingMove.entryLaw {e e' : Entry} (h : ShapingMove e e') (hi : e.state ≠ .inhibited) (he : EntryLaw e) :
    EntryLaw e' := by
  obtain ⟨shape, void, phase, rfl, hshape⟩ := h
  obtain ⟨hcfg, ⟨hload, hqual, hrun⟩, hflag, -, hheld⟩ := he
  refine ⟨hcfg, ⟨hload, hqual, ?_⟩, hflag, fun h => absurd h hi, hheld⟩
  rcases hshape with rfl | rfl | ⟨hl, rfl⟩
  · exact hrun
  · nofun
  · exact fun h => hcfg.2.2.1 hl (Timer.running.inj h)

theorem tick_cfg (e : Entry) : e.tick.cfg = e.cfg := rfl
theorem tick_state (e : Entry) : e.tick.state = e.state := rfl

/-- A tick takes no timer from loaded to unloaded or back. -/
theorem tick_loaded (t : Timer) : t.tick.loaded = t.loaded := by
  cases t with
  | unloaded | expired => rfl
  | running c =>
    rw [Timer.tick]
    split <;> rfl

theorem tick_unloaded_iff (t : Timer) : t.tick = .unloaded ↔ t = .unloaded := by
  have unloaded_iff : ∀ u : Timer, u = .unloaded ↔ u.loaded = false := by rintro (_ | _ | _) <;> simp [Timer.loaded]
  rw [unloaded_iff, unloaded_iff, tick_loaded]

/-- A tick leaves no count of 0 running (R41). -/
theorem tick_ne_running_zero {t : Timer} (h : t ≠ .running 0) : t.tick ≠ .running 0 := by
  rcases t.tick_cases with ⟨-, ht⟩ | ⟨c, rfl, hc, ht⟩ | ⟨-, ht⟩ <;> rw [ht]
  · nofun
  · intro e
    have : c - 1 = 0 := Timer.running.inj e
    bv_omega
  · exact h

theorem tick_entryLaw {e : Entry} (he : EntryLaw e) : EntryLaw e.tick := by
  obtain ⟨hcfg, ⟨hload, hqual, hshape⟩, hflag, hinh, hheld⟩ := he
  exact ⟨hcfg, ⟨(Bool.eq_iff_iff.mp (tick_loaded e.qual)).trans hload, tick_ne_running_zero hqual,
    tick_ne_running_zero hshape⟩, hflag, fun h => ⟨(hinh h).1, (tick_unloaded_iff _).mpr (hinh h).2⟩, hheld⟩

/-- The arm-time state is lawful whatever the entry was (R53). -/
theorem armTime_entryLaw (limit : Half) {e : Entry} (hc : ConfigLaw e.cfg) : EntryLaw (e.armTime limit) := by
  unfold Entry.armTime Entry.cancelShape Entry.cancelQual
  refine ⟨hc, ?_⟩
  cases h : e.cfg.startInhibit <;> simp [QualificationLaw, FlagLaw, StateLaw, Timer.loaded]

theorem armTime_cfg (limit : Half) (e : Entry) : (e.armTime limit).cfg = e.cfg := rfl

/-! ## The entry a work item leaves -/

@[simp] theorem takeLineCommand_entries (s : State) : (takeLineCommand s).entries = s.entries := by
  rw [takeLineCommand_work s]

@[simp] theorem takeLineCommand_channels (s : State) : (takeLineCommand s).channels = s.channels := by
  rw [takeLineCommand_work s]

@[simp] theorem setContrib_entries (l : Fin 16) (n : Fin 32) (b : Bool) (s : State) :
    (setContrib l n b s).entries = s.entries := by
  rw [setContrib_frame l n b s]

/-- The contribution step moves the shaping timer and the phase of its own entry (R85 to R88). -/
theorem contributionStep_entry (n : Fin 32) (dir : Direction) (s : State) :
    ShapingMove s.entries[n] (contributionStep n dir s).entries[n] := by
  unfold contributionStep
  dsimp only
  split
  · exact .refl _
  · have reload : ∀ phase : Bool, s.entries[n].cfg.shaping ≠ .level →
        ShapingMove s.entries[n] (Entry.loadShape s.entries[n].cfg.shapeTicks { s.entries[n] with phase := phase }) :=
      fun phase h => ⟨_, _, _, rfl, .inr (.inr ⟨h, rfl⟩)⟩
    split <;> rename_i hs <;> simp only [setContrib_entries, modEntry_entries, takeLineCommand_entries, get_set_self]
    · exact .refl _
    · exact .refl _
    · exact reload _ (by rw [hs]; decide)
    · exact .refl _
    · exact reload true (by rw [hs]; decide)
    · exact ⟨_, _, _, rfl, .inr (.inl rfl)⟩

@[simp] theorem captureHandOver_entries (n : Fin 32) (g : Edge) (s : State) :
    (captureHandOver n g s).entries = s.entries := by
  unfold captureHandOver
  dsimp only
  split
  · rfl
  · split <;> rfl

@[simp] theorem recordStep_entries (n : Fin 32) (g : Edge) (s : State) : (recordStep n g s).entries = s.entries := by
  rw [recordStep, handOverIf_eq]

/-- What an edge leaves of its entry (R14): the trip count of a trip edge, and what the contribution step moves. -/
theorem edge_entry (n : Fin 32) (g : Edge) (s : State) :
    ShapingMove (s.entries[n].counted g.dir) (edge n g s).entries[n] := by
  have h := contributionStep_entry n g.dir (modEntry n (Entry.counted g.dir) s)
  simpa only [edge, recordStep_entries, captureHandOver_entries, modEntry_entries, get_set_self] using h

/-- Counting a trip keeps an entry lawful, unless it is INHIBITED, which counts none (R46). -/
theorem counted_entryLaw (dir : Direction) {e : Entry} (hi : e.state ≠ .inhibited) (he : EntryLaw e) :
    EntryLaw (e.counted dir) := by
  obtain ⟨hcfg, hqual, hflag, -, hheld⟩ := he
  cases dir <;> exact ⟨hcfg, hqual, hflag, fun h => absurd h hi, hheld⟩

theorem counted_state (dir : Direction) (e : Entry) : (e.counted dir).state = e.state := by
  cases dir <;> rfl

/-! ## Work on one entry -/

/-- The engine's work on entry `n` takes `s` to `t`, leaves the entry lawful and arms it not. -/
structure LawfulWork (n : Fin 32) (s t : State) : Prop where
  work : EntryWork n s t
  lawful : EntryLaw t.entries[n]
  armed : t.entries[n].state ≠ .disarmed → s.entries[n].state ≠ .disarmed

/-- A change of entry `n` alone. -/
theorem lawfulWork_modEntry {n : Fin 32} {f : Entry → Entry} {s : State} (hcfg : (f s.entries[n]).cfg = s.entries[n].cfg)
    (hlaw : EntryLaw (f s.entries[n])) (harm : (f s.entries[n]).state ≠ .disarmed → s.entries[n].state ≠ .disarmed) :
    LawfulWork n s (modEntry n f s) :=
  ⟨modEntry_work n f s hcfg, by simpa only [modEntry_entries, get_set_self] using hlaw,
    by simpa only [modEntry_entries, get_set_self] using harm⟩

/-- A move with an edge leaves the entry lawful when the state it moves to is right for it (R52). -/
theorem moveWithEdge_lawful {n : Fin 32} {st : EntryState} (g : Edge) {s : State} (hst : st ≠ .inhibited)
    (hlaw : EntryLaw { s.entries[n] with state := st }) (harm : s.entries[n].state ≠ .disarmed) :
    LawfulWork n s (moveWithEdge n st g s) := by
  have h := edge_entry n g (modEntry n (fun e => { e with state := st }) s)
  rw [modEntry_entries, get_set_self] at h
  refine ⟨moveWithEdge_work n st g s, h.entryLaw ?_ (counted_entryLaw g.dir hst hlaw), fun _ => harm⟩
  rw [counted_state]
  exact hst

/-- A transition leaves a lawful entry whose condition flag is the input it is given (R45 to R51). -/
theorem transition_lawful (n : Fin 32) (active : Bool) (v : Option Half) {s : State} (hc : ConfigLaw s.entries[n].cfg)
    (hq : QualificationLaw s.entries[n]) (hs : StateLaw s.entries[n]) (hcond : s.entries[n].condition = active) :
    LawfulWork n s (transition n active v s) := by
  obtain ⟨hload, hqual, hshape⟩ := hq
  have stay (hf : FlagFits s.entries[n].state active) : LawfulWork n s s :=
    ⟨.refl n s, ⟨hc, ⟨hload, hqual, hshape⟩, by rw [FlagLaw, hcond]; exact hf, hs⟩, id⟩
  have idle (h : ¬(s.entries[n].state = .pendingTrip ∨ s.entries[n].state = .pendingClear)) :
      s.entries[n].qual.loaded = false := by
    rwa [← hload, Bool.not_eq_true] at h
  have law {st : EntryState} {qual : Timer} {void : Nat} :=
    moved_entryLaw (st := st) (qual := qual) (void := void) hc hshape hcond
  cases hst : s.entries[n].state <;> cases active <;> simp only [transition, hst] <;> rw [hst] at stay idle
  case disarmed.false | disarmed.true | inhibited.true | normal.false | pendingTrip.true | tripped.true
      | pendingClear.false | held.false => exact stay (by decide)
  case inhibited.false | held.true =>
    exact lawfulWork_modEntry rfl (law (by decide) (by decide) (idle (by decide)) hqual nofun) fun _ => hst ▸ nofun
  case normal.true =>
    split
    · exact moveWithEdge_lawful _ nofun (law (by decide) (by decide) (idle (by decide)) hqual nofun) (hst ▸ nofun)
    · next hd =>
      exact lawfulWork_modEntry rfl (law (st := .pendingTrip) nofun (by decide) rfl
        (fun h => hd (Timer.running.inj h)) nofun) fun _ => hst ▸ nofun
  case pendingTrip.false =>
    exact lawfulWork_modEntry rfl (law (st := .normal) nofun (by decide) rfl nofun nofun) fun _ => hst ▸ nofun
  case pendingClear.true =>
    exact lawfulWork_modEntry rfl (law (st := .tripped) nofun (by decide) rfl nofun nofun) fun _ => hst ▸ nofun
  case tripped.false =>
    split
    · next hlatch =>
      exact lawfulWork_modEntry rfl (law nofun (by decide) (idle (by decide)) hqual fun _ => hlatch) fun _ => hst ▸ nofun
    split
    · exact moveWithEdge_lawful _ nofun (law nofun (by decide) (idle (by decide)) hqual nofun) (hst ▸ nofun)
    · next hd =>
      exact lawfulWork_modEntry rfl (law (st := .pendingClear) nofun (by decide) rfl
        (fun h => hd (Timer.running.inj h)) nofun) fun _ => hst ▸ nofun

/-- The same behind the evaluation's own writes of the effective limit, the condition flag and the last value (R28,
R29). -/
theorem transition_after_input {n : Fin 32} {active : Bool} (v : Option Half) {s u : State} {limit : Half}
    {last : Option Half} (he : EntryLaw s.entries[n]) (hw : EntryWork n s u)
    (hu : u.entries[n] = { s.entries[n] with effLimit := limit, condition := active, lastValue := last }) :
    LawfulWork n s (transition n active v u) := by
  obtain ⟨hc, hq, -, hs⟩ := he
  have h : LawfulWork n u (transition n active v u) :=
    transition_lawful n active v (by rw [hu]; exact hc) (by rw [hu]; exact hq) (by rw [hu]; exact hs) (by rw [hu])
  exact ⟨hw.trans h.work, h.lawful, fun ht => by have := h.armed ht; rwa [hu] at this⟩

/-- An entry handled whole in an evaluation is left lawful (R28 to R33). -/
theorem handleEntry_lawful (n : Fin 32) (input : EvalInput) {s : State} (he : EntryLaw s.entries[n]) :
    LawfulWork n s (handleEntry n input s) := by
  cases input with
  | good v => exact transition_after_input _ he (modEntry_work n _ s rfl) (by rw [modEntry_entries, get_set_self])
  | fault =>
    have first : LawfulWork n s (modEntry n (fun e => { e with
        effLimit := effectiveLimit s.entries s.entries[n].cfg, lastValue := none }) s) :=
      lawfulWork_modEntry rfl he id
    simp only [handleEntry, handleFault]
    split
    · exact first
    split
    · exact first
    all_goals
      refine transition_after_input (last := none) (limit := effectiveLimit s.entries s.entries[n].cfg) _ he
        (first.work.trans (modEntry_work n _ _ rfl)) ?_
      simp only [modEntry_entries, get_set_self]

/-- A live qualification expiry leaves its entry lawful (R43). -/
theorem qualificationExpiry_lawful {n : Fin 32} {s : State} (he : EntryLaw s.entries[n])
    (hx : s.entries[n].qual = .expired) : LawfulWork n s (qualificationExpiry n s) := by
  obtain ⟨hc, ⟨hload, -, hshape⟩, ⟨hoff, hon⟩, -⟩ := he
  have hpending := hload.mp (by rw [hx]; rfl)
  have moved (st : EntryState) (g : Edge) (hi : st ≠ .inhibited) (hf : FlagFits st s.entries[n].condition)
      (hq : false = decide (st = .pendingTrip ∨ st = .pendingClear)) (hh : st ≠ .held) (ha : s.entries[n].state ≠ .disarmed) :
      LawfulWork n s (moveWithEdge n st g (modEntry n (fun e => { e with qual := .unloaded }) s)) := by
    have h : LawfulWork n _ (moveWithEdge n st g (modEntry n (fun e => { e with qual := .unloaded }) s)) :=
      moveWithEdge_lawful g hi (by
        rw [modEntry_entries, get_set_self]
        exact moved_entryLaw hc hshape rfl hi hf hq nofun fun h => absurd h hh) (by
        rw [modEntry_entries, get_set_self]
        exact ha)
    exact ⟨(modEntry_work n _ s rfl).trans h.work, h.lawful, fun _ => ha⟩
  rcases hpending with hst | hst <;> simp only [qualificationExpiry, hst]
  · exact moved _ _ nofun (by rw [hon (.inl hst)]; decide) (by decide) nofun (hst ▸ nofun)
  · exact moved _ _ nofun (by rw [hoff (.inr (.inl hst))]; decide) (by decide) nofun (hst ▸ nofun)

/-- What the engine does with a qualification claim it has taken leaves the entry lawful (R42, R43). -/
theorem serveQualification_lawful (n : Fin 32) {s : State} (he : EntryLaw s.entries[n]) :
    LawfulWork n s (serveQualification n s) := by
  unfold serveQualification
  split
  · exact lawfulWork_modEntry rfl he id
  · split
    · next hx => exact qualificationExpiry_lawful he hx
    · exact ⟨.refl n s, he, id⟩

/-- A live shaping expiry moves its entry's shaping timer and phase only (R44, R87, R89). -/
theorem shapingExpiry_entry (n : Fin 32) (s : State) : ShapingMove s.entries[n] (shapingExpiry n s).entries[n] := by
  unfold shapingExpiry
  dsimp only
  split <;> simp only [setContrib_entries, modEntry_entries, takeLineCommand_entries, get_set_self]
  · exact ⟨_, _, _, rfl, .inr (.inl rfl)⟩
  · next hs => exact ⟨_, _, _, rfl, .inr (.inr ⟨by rw [hs]; decide, rfl⟩)⟩
  · exact ⟨_, _, _, rfl, .inr (.inl rfl)⟩

theorem serveShaping_lawful (n : Fin 32) {s : State} (he : EntryLaw s.entries[n]) :
    LawfulWork n s (serveShaping n s) := by
  unfold serveShaping
  split
  · exact lawfulWork_modEntry rfl he id
  · split
    · next hx =>
      have hi : s.entries[n].state ≠ .inhibited := fun h => by
        have := (he.2.2.2.1 h).2
        rw [hx] at this
        cases this
      have hmove := shapingExpiry_entry n s
      exact ⟨shapingExpiry_work n s, hmove.entryLaw hi he, by rw [hmove.state]; exact id⟩
    · exact ⟨.refl n s, he, id⟩

/-- A HELD entry released is left lawful (R55). -/
theorem releaseEntry_lawful {n : Fin 32} {s : State} (he : EntryLaw s.entries[n]) (hst : s.entries[n].state = .held) :
    LawfulWork n s (releaseEntry n s) := by
  obtain ⟨hc, ⟨hload, hqual, hshape⟩, ⟨hoff, -⟩, -⟩ := he
  have idle : s.entries[n].qual.loaded = false := by
    rw [← Bool.not_eq_true, hload, hst]
    decide
  exact moveWithEdge_lawful _ nofun
    (moved_entryLaw hc hshape (hoff (.inr (.inr hst))) nofun (by decide) idle hqual nofun) (hst ▸ nofun)

/-- A withdrawal moves its entry's shaping timer and phase only (R90). -/
theorem withdraw_entry (n : Fin 32) (s : State) : ShapingMove s.entries[n] (withdraw n s).entries[n] := by
  unfold withdraw
  dsimp only
  split <;> simp only [setContrib_entries, modEntry_entries, get_set_self] <;>
    exact ⟨_, _, _, rfl, .inr (.inl rfl)⟩

/-- A DISARM leaves its entry lawful (R54). -/
theorem disarm_lawful {n : Fin 32} {s : State} (he : EntryLaw s.entries[n]) :
    LawfulWork n s (withdraw n (modEntry n (fun e => Entry.cancelQual { e with state := .disarmed }) s)) := by
  obtain ⟨hc, ⟨-, -, hshape⟩, -⟩ := he
  have hlaw : EntryLaw (Entry.cancelQual { s.entries[n] with state := .disarmed }) :=
    moved_entryLaw (st := .disarmed) (flag := s.entries[n].condition) hc hshape rfl nofun ⟨nofun, nofun⟩ rfl nofun nofun
  have hmove := withdraw_entry n (modEntry n (fun e => Entry.cancelQual { e with state := .disarmed }) s)
  rw [modEntry_entries, get_set_self] at hmove
  refine ⟨(modEntry_work n _ s rfl).trans (withdraw_work n _), hmove.entryLaw nofun hlaw, fun h => ?_⟩
  rw [hmove.state] at h
  exact absurd rfl h

/-! ## The law of the table -/

/-- A channel that is not OFF, named another way. -/
theorem bound_congr {s t : State} {k j : Fin 16} (hk : j = k) (hch : t.channels[k] = s.channels[k])
    (h : s.channels[k].state ≠ .off) : t.channels[j].state ≠ .off := by
  subst hk
  rwa [hch]

/-- A binding stands while no configuration changes, no entry is armed and no channel becomes OFF (R53). -/
theorem bindingLaw_of_configs {s t : State} (hcfg : ∀ m : Fin 32, t.entries[m].cfg = s.entries[m].cfg)
    (harm : ∀ m : Fin 32, t.entries[m].state ≠ .disarmed → s.entries[m].state ≠ .disarmed)
    (hoff : ∀ c : Fin 16, t.channels[c].state = .off → s.channels[c].state = .off) (hs : BindingLaw s) :
    BindingLaw t := fun m hm h =>
  hs m (harm m hm)
    ((congrArg (fun c : EntryConfig => s.channels[c.channel].state) (hcfg m)).symm.trans (hoff _ h))

/-- Tracking stands while no configuration changes (R9). -/
theorem trackingLaw_of_configs {s t : State} (hcfg : ∀ m : Fin 32, t.entries[m].cfg = s.entries[m].cfg)
    (hs : TrackingLaw s) : TrackingLaw t := fun m k hk => by
  rw [hcfg] at hk ⊢
  exact hs m k hk

/-- Work that leaves its entry lawful and arms nothing keeps the law of the table. -/
theorem LawfulWork.watchLaw {n : Fin 32} {s t : State} (h : LawfulWork n s t) (hs : WatchLaw s) : WatchLaw t := by
  obtain ⟨⟨hframe, hothers, hcfg⟩, hlaw, harm⟩ := h
  have hchannels : t.channels = s.channels := by rw [hframe]
  have at_entry {P : Fin 32 → Prop} (hn : P n) (ho : ∀ m, t.entries[m] = s.entries[m] → P m) (m : Fin 32) : P m := by
    by_cases hm : m = n
    · exact hm ▸ hn
    · exact ho m (hothers m hm)
  have hconfig := at_entry hcfg fun m e => congrArg Entry.cfg e
  exact ⟨at_entry hlaw fun m e => e ▸ hs.1 m,
    bindingLaw_of_configs hconfig (at_entry harm fun m e => e ▸ id) (fun c hc => by rwa [hchannels] at hc) hs.2.1,
    trackingLaw_of_configs hconfig hs.2.2⟩

/-- The watch table is as it was, and no channel has become OFF. -/
structure WatchKept (s t : State) : Prop where
  entries : t.entries = s.entries
  channels : ∀ c : Fin 16, t.channels[c].state = .off → s.channels[c].state = .off

theorem WatchKept.watchLaw {s t : State} (h : WatchKept s t) (hs : WatchLaw s) : WatchLaw t := by
  have hconfig (m : Fin 32) : t.entries[m].cfg = s.entries[m].cfg := by rw [h.entries]
  exact ⟨fun m => by rw [h.entries]; exact hs.1 m,
    bindingLaw_of_configs hconfig (fun m => by rw [h.entries]; exact id) h.channels hs.2.1,
    trackingLaw_of_configs hconfig hs.2.2⟩

theorem WatchKept.trans {s t u : State} (h : WatchKept s t) (k : WatchKept t u) : WatchKept s u :=
  ⟨k.entries.trans h.entries, fun c hc => h.channels c (k.channels c hc)⟩

/-- An event that reaches neither the watch table nor the channels. -/
theorem WatchKept.of_eq {s t : State} (he : t.entries = s.entries) (hc : t.channels = s.channels) : WatchKept s t :=
  ⟨he, fun c h => by rwa [hc] at h⟩

/-- The same behind a change that reaches neither. -/
theorem WatchKept.after {s t u : State} (k : WatchKept t u) (he : t.entries = s.entries)
    (hc : t.channels = s.channels) : WatchKept s u :=
  (WatchKept.of_eq he hc).trans k

/-- The same before a change that reaches neither. -/
theorem WatchKept.before {s t u : State} (h : WatchKept s t) (he : u.entries = t.entries)
    (hc : u.channels = t.channels) : WatchKept s u :=
  h.trans (.of_eq he hc)

theorem WatchKept.complete {s t : State} (h : WatchKept s t) (r : Result) : WatchKept s (complete r t) :=
  h.before (complete_entries t r) (complete_channels t r)

theorem complete_kept {s t : State} {r : Result} (he : t.entries = s.entries) (hc : t.channels = s.channels) :
    WatchKept s (Machine.complete r t) :=
  (WatchKept.of_eq he hc).complete r

theorem WatchKept.refl (s : State) : WatchKept s s := .of_eq rfl rfl

/-! ## Events that leave the watch table alone -/

theorem staging_kept (b : Vector Byte 32) (s : State) : WatchKept s { s with staging := b } := .of_eq rfl rfl

theorem chooseWork_kept (s : State) : WatchKept s (chooseWork s) := by
  refine ⟨chooseWork_entries s, fun c hc => ?_⟩
  obtain ⟨cfg, h | h⟩ := chooseWork_channels s c <;> rwa [h] at hc

theorem comeFree_kept (s : State) : WatchKept s (comeFree s) :=
  .after (chooseWork_kept _) rfl rfl

theorem endService_kept (r : Result) (s : State) : WatchKept s (endService r s) :=
  .after (comeFree_kept _) rfl rfl

theorem takeLineCommand_kept (s : State) : WatchKept s (takeLineCommand s) :=
  .of_eq (takeLineCommand_entries s) (takeLineCommand_channels s)

theorem takePortCommand_kept (s : State) : WatchKept s (takePortCommand s) := by
  rcases takePortCommand_cases s with ⟨-, h⟩ | ⟨-, h⟩ <;> rw [h]
  · exact .refl s
  · exact .of_eq rfl rfl

theorem takeChannelCommand_kept (c : Fin 16) (s : State) : WatchKept s (takeChannelCommand c s) := by
  refine ⟨by rw [takeChannelCommand_event c s], fun d hd => ?_⟩
  obtain ⟨cfg, h, -⟩ := takeChannelCommand_channels c d s
  rwa [h] at hd

/-- A change of one channel that does not turn it OFF. -/
theorem modChannel_kept {c : Fin 16} {f : Channel → Channel} {s : State}
    (hf : (f s.channels[c]).state = .off → s.channels[c].state = .off) : WatchKept s (modChannel c f s) := by
  refine ⟨rfl, fun d hd => ?_⟩
  rw [modChannel_channels, get_set] at hd
  split at hd
  · next e => rw [e]; exact hf hd
  · exact hd

theorem modLine_kept (l : Fin 16) (f : Line → Line) (s : State) : WatchKept s (modLine l f s) :=
  .of_eq (modLine_entries s l f) (modLine_channels s l f)

theorem handOverIf_kept (b : Bool) (who : Submitter) (loose : Bool) (r : RecordBody) (s : State) :
    WatchKept s (handOverIf b who loose r s) := by
  rw [handOverIf_eq]
  exact .of_eq rfl rfl

theorem requestIf_kept (b : Bool) (f : Flag) (s : State) : WatchKept s (requestIf b f s) := by
  rw [requestIf_eq]
  exact .of_eq rfl rfl

theorem takeRecord_kept (b : RecordBody) (s : State) : WatchKept s (takeRecord b s) := by
  obtain ⟨q, f, h⟩ := takeRecord_frame b s
  rw [h]
  exact .of_eq rfl rfl

theorem takeWaiting_kept (s : State) : WatchKept s (takeWaiting s) := by
  obtain ⟨q, f, h⟩ := takeWaiting_frame s
  rw [h]
  exact .of_eq rfl rfl

/-! ### The channel unit -/

theorem expired_off {ch : Channel} (h : ch.expired.state = .off) : ch.state = .off := by
  unfold Channel.expired at h
  split at h
  · cases h
  · cases h
  · exact h
  · exact h

theorem afterSample_off {st : ChannelState} (h : st.afterSample = .off) : st = .off := by
  cases st with
  | off => rfl
  | waiting | live | stale => cases h

theorem enabled_off {ch : Channel} (h : ch.enabled.state = .off) : ch.state = .off := by
  cases h

theorem restarted_off {ch : Channel} (h : ch.restarted.state = .off) : ch.state = .off := by
  unfold Channel.restarted at h
  split at h
  · assumption
  all_goals cases h

theorem freshnessExpiry_kept (c : Fin 16) (s : State) : WatchKept s (freshnessExpiry c s) :=
  .trans (modChannel_kept expired_off) (handOverIf_kept _ _ _ _ _)

theorem channelTick_kept (c : Fin 16) (s : State) : WatchKept s (channelTick c s) := by
  rcases channelTick_cases c s with ⟨-, h⟩ | ⟨-, -, h⟩ | ⟨-, -, h⟩ <;> rw [h]
  · exact .refl s
  · exact .after (.trans (takeChannelCommand_kept c _) (freshnessExpiry_kept c _)) rfl rfl
  · exact .after (modChannel_kept id) rfl rfl

theorem channelTicks_kept (s : State) : WatchKept s (channelTicks s) := by
  have fold : ∀ (cs : List (Fin 16)) (u : State), WatchKept u (cs.foldl (fun u c => channelTick c u) u) := by
    intro cs
    induction cs with
    | nil => exact .refl
    | cons c cs ih => exact fun u => (channelTick_kept c u).trans (ih _)
  exact (fold _ s).trans (chooseWork_kept _)

theorem takeArrival_kept (fromPort : Bool) (c : Fin 16) (raw : Half) (status : SampleStatus) (s : State) :
    WatchKept s (takeArrival fromPort c raw status s).2 := by
  unfold takeArrival
  dsimp only
  split
  · exact (takeChannelCommand_kept c s).trans (modChannel_kept id)
  · exact takeChannelCommand_kept c s

theorem settle_kept (c : Fin 16) (item : Item) (s : State) : WatchKept s (settle c item s).2 := by
  unfold settle
  split
  · unfold settleSample
    dsimp only
    split <;> exact .trans (modChannel_kept afterSample_off) (handOverIf_kept _ _ _ _ _)
  · exact .refl s

/-! ### Host cycles -/

theorem hostWrite_kept {f : State → State} (hf : ∀ u : State, WatchKept u (f u)) (s : State) :
    WatchKept s (hostWrite f s) := by
  rw [hostWrite_eq]
  split
  · exact .refl s
  · exact .after (hf _) rfl rfl

theorem hostRead_kept {f : State → State} (hf : ∀ u : State, WatchKept u (f u)) (b : Byte) (s : State) :
    WatchKept s (hostRead b f s) := by
  unfold hostRead
  split
  · exact .refl s
  · exact (hf s).before (driveOut_entries _ _) (driveOut_channels _ _)

theorem writeOe_kept (b : Bool) (s : State) : WatchKept s (writeOe b s) := by
  unfold writeOe
  split
  · exact .refl s
  · exact (takeLineCommand_kept s).before (by rw [refreshPins_entries]) (by rw [refreshPins_channels])

theorem writePortEnable_kept (b : Bool) (s : State) : WatchKept s (writePortEnable b s) := by
  unfold writePortEnable
  split
  · exact .refl s
  · exact (takePortCommand_kept s).trans (.of_eq rfl rfl)

theorem writeControl_kept (v : Byte) (s : State) : WatchKept s (writeControl v s) :=
  (writeOe_kept _ s).trans (writePortEnable_kept _ _)

theorem handToOwner_kept (c : Command) (s : State) : WatchKept s (handToOwner c s) := by
  unfold handToOwner
  split
  · exact chooseWork_kept s
  · split
    · exact .of_eq rfl rfl
    · exact .refl s

theorem writeCmdOp_kept (op : Byte) (s : State) : WatchKept s (writeCmdOp op s) := by
  unfold writeCmdOp
  split
  · exact .of_eq rfl rfl
  · split
    · exact .after (handToOwner_kept _ _) rfl rfl
    · exact .of_eq rfl rfl

theorem writeStaging_kept (k : Fin 32) (v : Byte) (s : State) : WatchKept s (writeStaging k v s) := by
  unfold writeStaging
  dsimp only
  split <;> exact .of_eq rfl rfl

theorem writeWatermark_kept (v : Byte) (s : State) : WatchKept s (writeWatermark v s) :=
  .after (requestIf_kept _ _ _) rfl rfl

theorem writeInjTag_kept (v : Byte) (s : State) : WatchKept s (writeInjTag v s) :=
  (takeArrival_kept false (tagChannel v) s.inj.value (tagStatus v) s).trans (.after (chooseWork_kept _) rfl rfl)

theorem writeWindow_kept (a : Address) (v : Byte) (s : State) : WatchKept s (writeWindow a v s) := by
  unfold writeWindow
  split
  · exact writeStaging_kept _ v s
  split
  · exact writeControl_kept v s
  · exact .of_eq rfl rfl
  · exact .of_eq rfl rfl
  · exact writeCmdOp_kept v s
  · exact .of_eq rfl rfl
  · exact .of_eq rfl rfl
  · exact writeWatermark_kept v s
  · exact .of_eq rfl rfl
  · exact .of_eq rfl rfl
  · exact writeInjTag_kept v s
  · exact .of_eq rfl rfl
  · exact .of_eq rfl rfl
  · exact .refl s

/-! ### Commands of the other blocks -/

theorem serveReadChannel_kept (s : State) : WatchKept s (serveReadChannel s) := by
  unfold serveReadChannel
  split
  · exact .complete (.refl s) _
  · exact .complete (staging_kept _ s) _

theorem serveWriteChannel_kept (s : State) : WatchKept s (serveWriteChannel s) := by
  unfold serveWriteChannel
  split
  · exact .of_eq rfl rfl
  split
  · exact .of_eq rfl rfl
  split
  · exact .of_eq rfl rfl
  · exact .complete (modChannel_kept id) _

theorem updateWant_kept (loose : Bool) (l : Fin 16) (s : State) : WatchKept s (updateWant loose l s) := by
  rw [updateWant_frame loose l s]
  exact .of_eq rfl rfl

theorem serveReadLine_kept (s : State) : WatchKept s (serveReadLine s) := by
  unfold serveReadLine
  split
  · exact .complete (.refl s) _
  · exact .complete (staging_kept _ s) _

theorem takeOver_kept (l : Fin 16) (s : State) : WatchKept s (takeOver l s) :=
  modLine_kept l _ s

theorem storeLine_kept (l : Fin 16) (p : LineProposal) (s : State) : WatchKept s (storeLine l p s) := by
  unfold storeLine
  dsimp only
  split
  · exact .after ((takeOver_kept l _).trans (takeOver_kept _ _)) rfl rfl
  · exact .of_eq rfl rfl

theorem serveWriteLine_kept (s : State) : WatchKept s (serveWriteLine s) := by
  unfold serveWriteLine
  dsimp only
  split
  · exact .complete (.refl s) _
  split
  · exact .complete (.refl s) _
  · exact .complete (storeLine_kept _ _ s) _

theorem serveSilence_kept (s : State) : WatchKept s (serveSilence s) := by
  unfold serveSilence
  split
  · exact .of_eq rfl rfl
  split
  · exact .of_eq rfl rfl
  · exact ((modLine_kept _ _ s).trans (updateWant_kept _ _ _)).complete _

theorem serveOverride_kept (s : State) : WatchKept s (serveOverride s) := by
  unfold serveOverride
  split
  · exact .of_eq rfl rfl
  split
  · exact .of_eq rfl rfl
  · exact ((modLine_kept _ _ s).trans (updateWant_kept _ _ _)).complete _

theorem serveResume_kept (s : State) : WatchKept s (serveResume s) := by
  unfold serveResume
  split
  · exact .complete (.refl s) _
  · exact .complete (.of_eq (by rw [refreshPins_entries]) (by rw [refreshPins_channels])) _

theorem endFrame_kept (s : State) : WatchKept s (endFrame s) := by
  unfold endFrame
  split
  · exact .after (requestIf_kept _ _ _) rfl rfl
  · exact .of_eq rfl rfl
  · exact .refl s
  · exact .refl s

theorem takeOutcome_kept (o : ArrivalOutcome) (s : State) : WatchKept s (takeOutcome o s) := by
  cases o <;> exact .of_eq rfl rfl

theorem endInterval_kept (s : State) : WatchKept s (endInterval s) := by
  unfold endInterval
  split <;> exact .of_eq rfl rfl

theorem stampTick_kept (s : State) : WatchKept s (stampTick s) := by
  unfold stampTick
  split <;> exact .of_eq rfl rfl

theorem assertShutoff_kept (s : State) : WatchKept s (assertShutoff s) := by
  have hcut : WatchKept s (refreshPins { s with shutoff := true, lines := mapVec Line.cutOff s.lines }) :=
    .of_eq (by rw [refreshPins_entries]) (by rw [refreshPins_channels])
  rw [assertShutoff]
  exact hcut.before rfl rfl

theorem settleTaken_kept (c : Fin 16) (item : Item) (s : State) : WatchKept s (settleTaken c item s) :=
  ((takeChannelCommand_kept c s).trans (settle_kept c item _)).trans (.of_eq rfl rfl)

/-! ## Events on the watch table -/

theorem watchLaw_engine {s : State} (e : Engine) (hs : WatchLaw s) : WatchLaw { s with engine := e } :=
  hs

theorem bankTimers_channels (s : State) : (bankTimers s).channels = s.channels := by
  rw [bankTimers]

theorem bankTimers_entry (s : State) (m : Fin 32) : (bankTimers s).entries[m] = s.entries[m].tick :=
  get_mapVec Entry.tick s.entries m

/-- A tick of the timer bank (R159). -/
theorem bankTick_watchLaw {s : State} (hs : WatchLaw s) : WatchLaw (bankTick s) := by
  have hconfig (m : Fin 32) : (bankTimers s).entries[m].cfg = s.entries[m].cfg := by
    rw [bankTimers_entry, tick_cfg]
  have htimers : WatchLaw (bankTimers s) :=
    ⟨fun m => by rw [bankTimers_entry]; exact tick_entryLaw (hs.1 m),
      bindingLaw_of_configs hconfig (fun m => by rw [bankTimers_entry, tick_state]; exact id)
        (fun c hc => by rwa [bankTimers_channels] at hc) hs.2.1,
      trackingLaw_of_configs hconfig hs.2.2⟩
  rcases bankTick_cases s with ⟨-, h⟩ | ⟨-, h⟩ <;> rw [h]
  · exact hs
  · exact (chooseWork_kept _).watchLaw htimers

theorem tick_watchLaw {s : State} (hs : WatchLaw s) : WatchLaw (tick s) := by
  have hstamped : WatchLaw (stampTick (endInterval s)) := ((endInterval_kept s).trans (stampTick_kept _)).watchLaw hs
  rw [tick]
  exact (channelTicks_kept _).watchLaw (bankTick_watchLaw hstamped)

theorem evaluationStep_watchLaw {s : State} (hs : WatchLaw s) : WatchLaw (evaluationStep s) := by
  unfold evaluationStep
  split
  · exact (settleTaken_kept _ _ s).watchLaw hs
  · split
    · exact (comeFree_kept s).watchLaw hs
    · next n _ => exact watchLaw_engine _ ((handleEntry_lawful n _ (hs.1 n)).watchLaw hs)
  all_goals exact hs

theorem evaluationRest_watchLaw (fuel : Nat) {s : State} (hs : WatchLaw s) : WatchLaw (evaluationRest fuel s) := by
  induction fuel generalizing s with
  | zero => exact hs
  | succ fuel ih =>
    unfold evaluationRest
    split
    · exact ih (evaluationStep_watchLaw hs)
    all_goals exact hs

theorem evaluationFinish_watchLaw {s : State} (hs : WatchLaw s) : WatchLaw (evaluationFinish s) := by
  unfold evaluationFinish
  split
  · exact evaluationRest_watchLaw _ ((settleTaken_kept _ _ s).watchLaw hs)
  · exact evaluationRest_watchLaw _ hs
  all_goals exact hs

theorem handleQualification_watchLaw (n : Fin 32) {s : State} (hs : WatchLaw s) : WatchLaw (handleQualification n s) := by
  have h := (serveQualification_lawful n (hs.1 n)).watchLaw hs
  unfold handleQualification
  dsimp only
  split
  · exact watchLaw_engine .ending h
  · exact (comeFree_kept _).watchLaw h

theorem releaseAllFrom_watchLaw (k count : Nat) {s : State} (hs : WatchLaw s) : WatchLaw (releaseAllFrom k count s) := by
  unfold releaseAllFrom
  split
  · next n hn =>
    have hheld : s.entries[n].state = .held := by
      have := (find_finRange_eq_some.mp hn).1
      rw [Bool.and_eq_true, beq_iff_eq] at this
      exact this.2
    have hreleased : WatchLaw (releaseEntry n s) := (releaseEntry_lawful (hs.1 n) hheld).watchLaw hs
    dsimp only
    exact watchLaw_engine _ hreleased
  · exact WatchKept.watchLaw (s := s) (.after (endService_kept _ _) rfl rfl) hs

theorem releaseAllStep_watchLaw {s : State} (hs : WatchLaw s) : WatchLaw (releaseAllStep s) := by
  unfold releaseAllStep
  split
  · split
    · exact releaseAllFrom_watchLaw _ _ hs
    · exact hs
  · exact releaseAllFrom_watchLaw _ _ hs
  all_goals exact hs

theorem releaseAllRest_watchLaw (fuel : Nat) {s : State} (hs : WatchLaw s) : WatchLaw (releaseAllRest fuel s) := by
  induction fuel generalizing s with
  | zero => exact hs
  | succ fuel ih =>
    unfold releaseAllRest
    split
    · exact ih (releaseAllStep_watchLaw hs)
    all_goals exact hs

/-- WRITE_ENTRY stores a configuration that has passed its checks (R7 to R12). -/
theorem store_watchLaw {n : Fin 32} {c : EntryConfig} {s : State} (hc : ConfigLaw c)
    (hfix : s.entries[n].state ≠ .disarmed → FixedFieldsEqual s.entries[n].cfg c) (ht : ¬ TrackTooDeep n c.track s)
    (hs : WatchLaw s) : WatchLaw (modEntry n (fun e => { e with cfg := c }) s) := by
  obtain ⟨hentries, hbinding, htracking⟩ := hs
  have hself : (modEntry n (fun e => { e with cfg := c }) s).entries[n] = { s.entries[n] with cfg := c } := by
    rw [modEntry_entries, get_set_self]
  have hother (m : Fin 32) (hm : m ≠ n) : (modEntry n (fun e => { e with cfg := c }) s).entries[m] = s.entries[m] := by
    rw [modEntry_entries, get_set_ne _ _ hm]
  refine ⟨fun m => ?_, fun m hm => ?_, fun m k hk => ?_⟩
  · by_cases hmn : m = n
    · subst hmn
      obtain ⟨-, hqual, hflag, hinhibited, hheld⟩ := hentries m
      rw [hself]
      refine ⟨hc, hqual, hflag, hinhibited, fun h => ?_⟩
      obtain ⟨-, -, -, -, hlatch, -⟩ := hfix (by rw [h]; decide)
      exact hlatch ▸ hheld h
    · rw [hother m hmn]
      exact hentries m
  · by_cases hmn : m = n
    · subst hmn
      rw [hself] at hm
      obtain ⟨hchannel, -⟩ := hfix hm
      exact bound_congr (by rw [hself, hchannel]) rfl (hbinding m hm)
    · rw [hother m hmn] at hm
      exact bound_congr (by rw [hother m hmn]) rfl (hbinding m hm)
  · by_cases hmn : m = n
    · subst hmn
      rw [hself] at hk
      have hne : k ≠ m := fun e => ht ⟨k, hk, .inl e⟩
      refine ⟨hne, ?_⟩
      rw [hother k hne]
      by_contra h
      exact ht ⟨k, hk, .inr (.inl h)⟩
    · rw [hother m hmn] at hk
      obtain ⟨hne, hnone⟩ := htracking m k hk
      refine ⟨hne, ?_⟩
      by_cases hkn : k = n
      · subst hkn
        rw [hself]
        by_contra h
        obtain ⟨j, hj⟩ := Option.ne_none_iff_exists'.mp h
        exact ht ⟨j, hj, .inr (.inr ⟨m, hmn, hk⟩)⟩
      · rwa [hother k hkn]

/-- ARM puts an entry into its arm-time state, on a channel that is not OFF (R53). -/
theorem arm_watchLaw {n : Fin 32} (limit : Half) {s : State}
    (hch : s.channels[s.entries[n].cfg.channel].state ≠ .off) (hs : WatchLaw s) :
    WatchLaw (modEntry n (Entry.armTime limit) s) := by
  obtain ⟨hentries, hbinding, htracking⟩ := hs
  have hconfig (m : Fin 32) : (modEntry n (Entry.armTime limit) s).entries[m].cfg = s.entries[m].cfg := by
    rw [modEntry_entries, get_set]
    split
    · next e => rw [e, armTime_cfg]
    · rfl
  refine ⟨fun m => ?_, fun m hm => bound_congr (by rw [hconfig]) rfl ?_, trackingLaw_of_configs hconfig htracking⟩
  · rw [modEntry_entries, get_set]
    split
    · exact armTime_entryLaw limit (hentries n).1
    · exact hentries m
  · by_cases hmn : m = n
    · exact hmn ▸ hch
    · rw [modEntry_entries, get_set_ne _ _ hmn] at hm
      exact hbinding m hm

/-- DISABLE turns a channel OFF that no armed entry watches (R39, R137). -/
theorem disable_watchLaw {c : Fin 16} {s : State} (hfree : channelInUse c s = false) (hs : WatchLaw s) :
    WatchLaw (modChannel c Channel.disabled s) := by
  refine ⟨hs.1, fun m hm => ?_, hs.2.2⟩
  rw [modChannel_entries] at hm
  have hne : s.entries[m].cfg.channel ≠ c := by
    have h := List.any_eq_false.mp hfree m (List.mem_finRange m)
    rw [Bool.and_eq_true, bne_iff_ne, beq_iff_eq] at h
    exact fun e => h ⟨hm, e⟩
  refine bound_congr (k := s.entries[m].cfg.channel) rfl ?_ (hs.2.1 m hm)
  rw [modChannel_channels, get_set_ne _ _ hne]

/-- The engine's part of RESTART puts armed entries back into their arm-time state (R60). -/
theorem restartEngine_watchLaw {s : State} (hs : WatchLaw s) : WatchLaw (restartEngine s) := by
  obtain ⟨hentries, hbinding, htracking⟩ := hs
  have hentry (m : Fin 32) : (restartEngine s).entries[m] = s.entries[m].restarted s.entries := get_mapVec _ _ _
  have hchannels : (restartEngine s).channels = s.channels := by rw [restartEngine]
  have hconfig (m : Fin 32) : (restartEngine s).entries[m].cfg = s.entries[m].cfg := by
    rw [hentry, Entry.restarted]
    split
    · rfl
    · rw [armTime_cfg]
  refine ⟨fun m => ?_, bindingLaw_of_configs hconfig (fun m hm => ?_) (fun c hc => by rwa [hchannels] at hc) hbinding,
    trackingLaw_of_configs hconfig htracking⟩
  · rw [hentry, Entry.restarted]
    split
    · exact hentries m
    · exact armTime_entryLaw _ (hentries m).1
  · intro hst
    rw [hentry, Entry.restarted, hst] at hm
    exact hm hst

theorem restartOutputs_kept (s : State) : WatchKept s (restartOutputs s) := by
  unfold restartOutputs
  exact .of_eq rfl rfl

theorem restartChannels_kept (s : State) : WatchKept s (restartChannels s) := by
  unfold restartChannels
  refine ⟨rfl, fun c hc => ?_⟩
  rw [get_mapVec] at hc
  exact restarted_off hc

theorem restartQueue_kept (s : State) : WatchKept s (restartQueue s) :=
  (takeWaiting_kept s).trans (.after (takeRecord_kept _ _) rfl rfl)

/-- Each part of RESTART keeps the law of the table (R172). -/
theorem restartPart_watchLaw (p : RestartPart) {s : State} (hs : WatchLaw s) : WatchLaw (restartPart p s) := by
  rcases restartPart_cases p s with h | ⟨-, -, -, h⟩ | ⟨_, _, _, _, _, -, ⟨-, -, h⟩ | ⟨-, -, h⟩ | ⟨-, -, h⟩
    | ⟨-, -, -, -, -, h⟩ | ⟨-, -, -, -, -, -, h⟩ | ⟨-, -, -, -, -, -, h⟩⟩ <;> rw [h]
  · exact hs
  · exact restartEngine_watchLaw hs
  · exact watchLaw_engine _ ((restartOutputs_kept s).watchLaw hs)
  · exact watchLaw_engine _ ((restartChannels_kept s).watchLaw hs)
  · exact watchLaw_engine _ hs
  · exact watchLaw_engine _ hs
  · exact watchLaw_engine _ ((restartQueue_kept s).watchLaw hs)
  · exact (endService_kept .ok s).watchLaw hs

theorem restartAll_watchLaw {s : State} (hs : WatchLaw s) : WatchLaw (restartAll s) := by
  have fold : ∀ (ps : List RestartPart) (u : State), WatchLaw u → WatchLaw (ps.foldl (fun s p => restartPart p s) u) := by
    intro ps
    induction ps with
    | nil => exact fun _ => id
    | cons p ps ih => exact fun u hu => ih _ (restartPart_watchLaw p hu)
  exact fold _ s hs

/-- In power-on reset every entry is DISARMED and tracks none (R177). -/
theorem powerOn_watchLaw (s : State) : WatchLaw (powerOn s) := by
  have hentry (m : Fin 32) : (powerOn s).entries[m] = Entry.powerOn := by simp [powerOn, State.reset]
  refine ⟨fun m => ?_, fun m hm => ?_, fun m k hk => ?_⟩
  · rw [hentry]
    decide
  · rw [hentry] at hm
    exact absurd rfl hm
  · rw [hentry] at hk
    cases hk

/-! ## Every command keeps the law -/

/-- An outcome that, where it is a next state, meets the law of the watch table. -/
def Lawful (o : Host.Outcome State Fault Refusal) : Prop :=
  ∀ t : State, o = .next t → WatchLaw t

theorem lawful_next {t : State} (h : WatchLaw t) : Lawful (.next t) := by
  rintro u ⟨⟩
  exact h

/-- An event that leaves the watch table alone. -/
theorem lawful_kept {s t : State} (hs : WatchLaw s) (h : WatchKept s t) : Lawful (.next t) :=
  lawful_next (h.watchLaw hs)

/-- A command that is served where it waits, and does nothing where it does not. -/
theorem lawful_ite {s t : State} {b : Bool} (hs : WatchLaw s) (h : WatchKept s t) :
    Lawful (.next (if b then t else s)) := by
  cases b
  · exact lawful_next hs
  · exact lawful_kept hs h

section
variable {s : State} (hs : WatchLaw s)
include hs

theorem lawful_endService (r : Result) : Lawful (.next (endService r s)) :=
  lawful_kept hs (endService_kept r s)

theorem execReadEntry_lawful : Lawful (execReadEntry s) := by
  unfold execReadEntry
  split
  · split
    · exact lawful_endService hs _
    · exact lawful_kept hs ((staging_kept _ s).trans (endService_kept _ _))
  · exact lawful_next hs

theorem execWriteEntry_lawful : Lawful (execWriteEntry s) := by
  unfold execWriteEntry
  split
  · split
    · exact lawful_endService hs _
    split
    · exact lawful_endService hs _
    next n _ _ c hparse =>
    split
    · exact lawful_endService hs _
    · next hrefusal =>
      obtain ⟨-, hband, hhyst, hticks⟩ := parseEntry_eq_some.mp hparse
      rw [writeEntryRefusal_eq] at hrefusal
      split at hrefusal
      · cases hrefusal
      next hwide =>
      split at hrefusal
      · cases hrefusal
      next harmed =>
      split at hrefusal
      · cases hrefusal
      next htrack =>
      rw [← hysteresisFits_eq_false, Bool.not_eq_false] at hwide
      have hfix (h : s.entries[n].state ≠ .disarmed) : FixedFieldsEqual s.entries[n].cfg c := by
        by_contra hne
        exact harmed ⟨h, hne⟩
      exact lawful_next ((endService_kept _ _).watchLaw
        (store_watchLaw ⟨hband, hhyst, hticks, hwide⟩ hfix htrack hs))
  · exact lawful_next hs

theorem execArm_lawful : Lawful (execArm s) := by
  unfold execArm
  split
  · split
    · exact lawful_endService hs _
    dsimp only
    split
    · exact lawful_endService hs _
    split
    · exact lawful_endService hs _
    · next hch =>
      exact lawful_next ((endService_kept _ _).watchLaw (arm_watchLaw _ (by simpa using hch) hs))
  · exact lawful_next hs

theorem execDisarm_lawful : Lawful (execDisarm s) := by
  unfold execDisarm
  split
  · split
    · exact lawful_endService hs _
    split
    · exact lawful_endService hs _
    · next n _ _ => exact lawful_next ((endService_kept _ _).watchLaw ((disarm_lawful (hs.1 n)).watchLaw hs))
  · exact lawful_next hs

theorem execRelease_lawful : Lawful (execRelease s) := by
  unfold execRelease
  split
  · split
    · exact lawful_endService hs _
    next n _ =>
    split
    · exact lawful_endService hs _
    · next hheld => exact lawful_next ((endService_kept _ _).watchLaw ((releaseEntry_lawful (hs.1 n) hheld).watchLaw hs))
    all_goals exact lawful_endService hs _
  · exact lawful_next hs

theorem execReleaseAll_lawful (x : Extent) : Lawful (execReleaseAll x s) := by
  cases x with
  | advance => exact lawful_next (releaseAllStep_watchLaw hs)
  | finish => exact lawful_next (releaseAllRest_watchLaw 32 (releaseAllStep_watchLaw hs))

theorem execEnable_lawful : Lawful (execEnable s) := by
  unfold execEnable
  split
  · split
    · exact lawful_endService hs _
    split
    · exact lawful_endService hs _
    · exact lawful_kept hs ((modChannel_kept enabled_off).trans (endService_kept _ _))
  · exact lawful_next hs

theorem execDisable_lawful : Lawful (execDisable s) := by
  unfold execDisable
  split
  · split
    · exact lawful_endService hs _
    split
    · exact lawful_endService hs _
    next hfree =>
    split
    · exact lawful_endService hs _
    · exact lawful_next ((endService_kept _ _).watchLaw (disable_watchLaw (Bool.eq_false_iff.mpr hfree) hs))
  · exact lawful_next hs

theorem execRestart_lawful (x : RestartExtent) : Lawful (execRestart x s) := by
  cases x with
  | finish => exact lawful_next (restartAll_watchLaw hs)
  | part p => exact lawful_next (restartPart_watchLaw p hs)

theorem execEvaluation_lawful (x : Extent) : Lawful (execEvaluation x s) := by
  cases x with
  | advance => exact lawful_next (evaluationStep_watchLaw hs)
  | finish => exact lawful_next (evaluationFinish_watchLaw hs)

theorem execQualificationExpiryTaken_lawful : Lawful (execQualificationExpiryTaken s) := by
  unfold execQualificationExpiryTaken
  split
  · exact lawful_next (handleQualification_watchLaw _ hs)
  · exact lawful_kept hs (comeFree_kept s)
  all_goals exact lawful_next hs

theorem execShapingExpiryTaken_lawful : Lawful (execShapingExpiryTaken s) := by
  unfold execShapingExpiryTaken
  split
  · next n _ => exact lawful_next ((comeFree_kept _).watchLaw ((serveShaping_lawful n (hs.1 n)).watchLaw hs))
  all_goals exact lawful_next hs

theorem execTickBy_lawful (x : TickExtent) : Lawful (execTickBy x s) := by
  cases x with
  | whole => exact lawful_next (tick_watchLaw hs)
  | interval => exact lawful_kept hs (endInterval_kept s)
  | timestamp => exact lawful_kept hs (stampTick_kept s)
  | timerBank => exact lawful_next (bankTick_watchLaw hs)
  | channelUnit => exact lawful_kept hs (channelTicks_kept s)

/-- The tick of the timer bank, where it is the one a row names (R41). -/
theorem bankTick_if_lawful (b : Bool) : Lawful (.next (if b then bankTick s else s)) := by
  cases b
  · exact lawful_next hs
  · exact lawful_next (bankTick_watchLaw hs)

theorem execPop_lawful : Lawful (execPop s) := by
  unfold execPop
  split
  · split
    · exact lawful_kept hs (.complete (.refl s) _)
    · exact lawful_kept hs (complete_kept rfl rfl)
  · exact lawful_next hs

theorem execFlush_lawful : Lawful (execFlush s) := by
  unfold execFlush
  split
  · exact lawful_kept hs (complete_kept rfl rfl)
  · exact lawful_next hs

theorem execReadAcc_lawful : Lawful (execReadAcc s) := by
  unfold execReadAcc
  split
  · exact lawful_next hs
  · next h =>
    obtain ⟨-, rest, -, rfl⟩ := takeAccCommand_eq_some.mp h
    have htaken : WatchKept s { s with captures := rest } := .of_eq rfl rfl
    split
    · exact lawful_kept hs (htaken.complete _)
    · exact lawful_kept hs ((htaken.trans (staging_kept _ _)).complete _)

theorem execWriteAcc_lawful : Lawful (execWriteAcc s) := by
  unfold execWriteAcc
  split
  · exact lawful_next hs
  · next h =>
    obtain ⟨-, rest, -, rfl⟩ := takeAccCommand_eq_some.mp h
    split <;> exact lawful_kept hs (complete_kept rfl rfl)

theorem execCaptureStep_lawful : Lawful (execCaptureStep s) := by
  unfold execCaptureStep
  split
  · exact lawful_kept hs (.of_eq rfl rfl)
  all_goals exact lawful_next hs

theorem execFreshnessExpiry_lawful (c : Fin 16) : Lawful (execFreshnessExpiry c s) :=
  lawful_ite hs ((channelTick_kept c s).trans (chooseWork_kept _))

theorem execArrival_lawful : Lawful (execArrival s) := by
  unfold execArrival
  split
  · exact lawful_next hs
  · next a rest _ =>
    have harrival := (takeArrival_kept true a.channel a.raw a.status
      { s with port := { s.port with delivered := rest } }).after (s := s) rfl rfl
    exact lawful_kept hs (harrival.trans (.after (chooseWork_kept _) rfl rfl))

theorem execArrivalOutcome_lawful : Lawful (execArrivalOutcome s) := by
  unfold execArrivalOutcome
  split
  · exact lawful_next hs
  · exact lawful_kept hs ((takePortCommand_kept s).trans (.after (takeOutcome_kept _ _) rfl rfl))

theorem execFrameStart_lawful : Lawful (execFrameStart s) := by
  unfold execFrameStart
  split
  · exact lawful_next hs
  split
  · exact lawful_kept hs (.of_eq rfl rfl)
  · exact lawful_kept hs ((takePortCommand_kept s).before rfl rfl)

theorem execFrameEnd_lawful : Lawful (execFrameEnd s) := by
  unfold execFrameEnd
  split
  · exact lawful_next hs
  split
  · exact lawful_kept hs (.of_eq rfl rfl)
  · exact lawful_kept hs ((takePortCommand_kept s).trans (.after (endFrame_kept _) rfl rfl))

theorem execSclkRisingEdge_lawful (sdat : Bool) : Lawful (execSclkRisingEdge sdat s) := by
  unfold execSclkRisingEdge
  split
  · exact lawful_next hs
  · exact lawful_kept hs ((takePortCommand_kept s).before rfl rfl)

theorem execRecordSubmission_lawful (who : Submitter) : Lawful (execRecordSubmission who s) := by
  unfold execRecordSubmission
  split
  · exact lawful_kept hs (.after (takeRecord_kept _ _) rfl rfl)
  · exact lawful_next hs

theorem execShutoffAssert_lawful : Lawful (execShutoffAssert s) := by
  unfold execShutoffAssert
  split
  · exact lawful_next hs
  split
  · exact lawful_kept hs (.of_eq rfl rfl)
  · exact lawful_kept hs ((takeLineCommand_kept s).trans (assertShutoff_kept _))

theorem execPowerOnResetEnd_lawful : Lawful (execPowerOnResetEnd s) :=
  lawful_ite hs (.of_eq rfl rfl)

/-- A write cycle whose effect leaves the watch table alone. -/
theorem lawful_hostWrite {f : State → State} (hf : ∀ u : State, WatchKept u (f u)) : Lawful (.next (hostWrite f s)) :=
  lawful_kept hs (hostWrite_kept hf s)

/-- A read cycle loads a latch. -/
theorem lawful_hostRead {f : State → State} {b : Byte} (hf : ∀ u : State, WatchKept u (f u)) :
    Lawful (.next (hostRead b f s)) :=
  lawful_kept hs (hostRead_kept hf b s)

/-- Every command keeps the law of the watch table. -/
theorem exec_lawful (c : Instr) : Lawful (exec c s) := by
  cases c with
  | readEntry => exact execReadEntry_lawful hs
  | writeEntry => exact execWriteEntry_lawful hs
  | arm => exact execArm_lawful hs
  | disarm => exact execDisarm_lawful hs
  | release => exact execRelease_lawful hs
  | releaseAll x => exact execReleaseAll_lawful hs x
  | readChannel => exact lawful_ite hs (serveReadChannel_kept s)
  | writeChannel => exact lawful_ite hs (serveWriteChannel_kept s)
  | enable => exact execEnable_lawful hs
  | disable => exact execDisable_lawful hs
  | readLine => exact lawful_ite hs (serveReadLine_kept s)
  | writeLine => exact lawful_ite hs (serveWriteLine_kept s)
  | silence => exact lawful_ite hs (serveSilence_kept s)
  | override => exact lawful_ite hs (serveOverride_kept s)
  | resume => exact lawful_ite hs (serveResume_kept s)
  | pop => exact execPop_lawful hs
  | flush => exact execFlush_lawful hs
  | readAcc => exact execReadAcc_lawful hs
  | writeAcc => exact execWriteAcc_lawful hs
  | clearPortCounts => exact lawful_ite hs (.of_eq rfl rfl)
  | restart x => exact execRestart_lawful hs x
  | badOpcode op | cmdOpWriteLost op | commandTaken op => exact lawful_hostWrite hs (writeCmdOp_kept op)
  | evaluation x => exact execEvaluation_lawful hs x
  | captureStep => exact execCaptureStep_lawful hs
  | qualificationTimerExpiry n | shapingTimerExpiry n => exact bankTick_if_lawful hs _
  | qualificationExpiryTaken => exact execQualificationExpiryTaken_lawful hs
  | shapingExpiryTaken => exact execShapingExpiryTaken_lawful hs
  | tickBy x => exact execTickBy_lawful hs x
  | freshnessExpiry c => exact execFreshnessExpiry_lawful hs c
  | arrival => exact execArrival_lawful hs
  | arrivalOutcome => exact execArrivalOutcome_lawful hs
  | frameStart => exact execFrameStart_lawful hs
  | frameEnd => exact execFrameEnd_lawful hs
  | injTagWrite v => exact lawful_hostWrite hs (writeInjTag_kept v)
  | injValueLowWrite v | injValueHighWrite v | tbdivLowWrite v | tbdivHighWrite v | intFlagsClear v | intMaskWrite v =>
    exact lawful_hostWrite hs fun _ => .of_eq rfl rfl
  | oeChange v | portEnChange v => exact lawful_hostWrite hs (writeControl_kept v)
  | watermarkWrite v => exact lawful_hostWrite hs (writeWatermark_kept v)
  | headLatchLoad | timestampLatchLoad | bitmapLatchLoad b => exact lawful_hostRead hs fun _ => .of_eq rfl rfl
  | registerWrite a v => exact lawful_hostWrite hs (writeWindow_kept a v)
  | recordSubmission who => exact execRecordSubmission_lawful hs who
  | shutoffAssert => exact execShutoffAssert_lawful hs
  | shutoffRelease => exact lawful_ite hs ((takeLineCommand_kept s).before rfl rfl)
  | powerOnReset => exact lawful_next (powerOn_watchLaw s)
  | powerOnResetEnd => exact execPowerOnResetEnd_lawful hs
  | sclkRisingEdge sdat => exact execSclkRisingEdge_lawful hs sdat

/-- A CLKIN period keeps it too (R156). -/
theorem clkin_watchLaw : WatchLaw (clkin s) := by
  unfold clkin
  split
  · exact hs
  split
  · exact tick_watchLaw hs
  · exact hs

end

/-- Settles O9: by cases on what a step does, the command at the front of the queue or a CLKIN period. -/
theorem stepKeepsWatchLaw : Obligations.StepKeepsWatchLaw := by
  intro s t hs hstep
  unfold step at hstep
  split at hstep
  · exact lawful_next (clkin_watchLaw hs) t hstep
  · next c rest _ =>
    have hrest : WatchLaw { s with pending := rest } := hs
    exact exec_lawful hrest c t hstep

end Sys2Proof.WatchTable
end

section
/-! PROOFS. The tests of the trip conditions (O60): the two tests of each compare kind and hysteresis side, for every
value. -/

namespace Sys2Proof.Conditions

open Sys2Proof.Machine

/-! ## The condition and the two tests -/

@[simp] theorem newCondition_inactive (c : EntryConfig) (L v : Int) : newCondition c false L v = activates c L v := rfl

@[simp] theorem newCondition_active (c : EntryConfig) (L v : Int) : newCondition c true L v = !releases c L v := rfl

/-- R22: a value that meets neither test keeps the condition, whichever it is. -/
theorem newCondition_of_neither {c : EntryConfig} {L v : Int} (stored : Bool) (ha : activates c L v = false)
    (hr : releases c L v = false) : newCondition c stored L v = stored := by
  cases stored
  · rw [newCondition_inactive, ha]
  · rw [newCondition_active, hr, Bool.not_false]

/-- R23, R24: no value meets both tests of a stored configuration. Where the hysteresis lies inside the band this is R8's
check, that it does not exceed the band; elsewhere it is that hysteresis and band are no negative numbers. -/
theorem not_activates_and_releases (c : EntryConfig) (L v : Int) :
    hysteresisFits c = true → ¬ (activates c L v = true ∧ releases c L v = true) := by
  unfold hysteresisFits activates releases
  cases c.compare <;> cases c.hystSide <;> simp only [decide_eq_true_eq] <;> omega

/-- Settles O60: the two tests are apart, and at each compare kind and hysteresis side the tests and their boundaries are
those of Tables 2-3 to 2-5, by linear arithmetic. -/
theorem conditionBoundaries : Obligations.ConditionBoundaries := by
  intro c L v stored hfit
  refine ⟨not_activates_and_releases c L v hfit, newCondition_of_neither stored, ?above, ?aboveTrip, ?below, ?belowTrip,
    ?inside, ?insideTrip, ?outside, ?outsideTrip⟩ <;> intro hk hs <;>
    simp only [newCondition_inactive, newCondition_active, activates, releases, hk, hs, Bool.not_eq_true',
      Bool.not_eq_false', decide_eq_true_eq, decide_eq_false_iff_not, ge_iff_le, gt_iff_lt, true_and, and_true]
  case above | aboveTrip | below | belowTrip => and_intros <;> omega
  case inside | insideTrip | outside | outsideTrip => omega

end Sys2Proof.Conditions
end

section
/-! PROOFS. What a contribution change and a line command do on the lines: want, hold and blocked of a line and its
partner, the CONFLICT record, and what a line command taken before leaves. -/

namespace Sys2Proof.Contributions

open Sys2Proof.Machine Sys2Proof.Safety Sys2Proof.Claims Sys2Proof.WatchTable

/-! ## Two lines, one changed -/

theorem partner_ne (l : Fin 16) : partner l ≠ l := by
  revert l
  decide

theorem modLine_self (l : Fin 16) (f : Line → Line) (s : State) : (modLine l f s).lines[l] = f s.lines[l] := by
  rw [modLine_lines, get_set_self]

theorem modLine_other {l k : Fin 16} (f : Line → Line) (s : State) (hk : k ≠ l) :
    (modLine l f s).lines[k] = s.lines[k] := by
  rw [modLine_lines, get_set_ne _ _ hk]

theorem contributing_eq (n : Fin 32) (b : Bool) (ln : Line) : contributing n b ln = ln.withContrib n b := by
  have hdemand : decide (∃ m : Fin 32, (ln.contrib.set n b)[m] = true) = anyContrib (ln.contrib.set n b) := by
    rw [Bool.eq_iff_iff, decide_eq_true_iff, anyContrib, List.any_eq_true]
    exact exists_congr fun m => (and_iff_right (List.mem_finRange m)).symm
  simp only [contributing, Line.withContrib, hdemand, Bool.and_eq_true, Bool.not_eq_true']

/-! ## Want rises, want falls -/

/-- A line whose want rises, and that its exclusive partner's hold blocks (R95), has no pin. -/
theorem withPin_blocked (oe : Bool) {ln : Line} (h : ln.hold = false) :
    Line.withPin oe { ln with want := true, blocked := true } =
      { ln with want := true, blocked := true, hold := false, pinActive := false } := by
  simp [Line.withPin, h]

/-- A line whose want rises, and that takes hold (R95). -/
theorem withPin_holding (oe : Bool) {ln : Line} (h : ln.blocked = false) :
    Line.withPin oe { ln with want := true, hold := true } =
      { ln with want := true, blocked := false, hold := true, pinActive := oe && !ln.cut } := by
  simp [Line.withPin, h]

theorem raiseWant_lines (i : Bool) (l : Fin 16) (s : State) :
    (raiseWant i l s).lines = s.lines.set l
      (if isExclusive l s && s.lines[partner l].hold then
        Line.withPin s.oe { s.lines[l] with want := true, blocked := true }
      else Line.withPin s.oe { s.lines[l] with want := true, hold := true }) := by
  unfold raiseWant
  split
  · rw [handOverIf_eq]
    rfl
  · rfl

theorem raiseWant_waiting (i : Bool) (l : Fin 16) (s : State) :
    (raiseWant i l s).waiting = s.waiting ++
      if (isExclusive l s && s.lines[partner l].hold) = true ∧ s.lines[l].conflictEvent = true then
        [{ submitter := .outputUnit, item := s.workItem, loose := i, body := conflictRecord l s.lines[l] }]
      else [] := by
  unfold raiseWant
  cases isExclusive l s && s.lines[partner l].hold
  · rw [if_neg Bool.false_ne_true, if_neg fun h => Bool.false_ne_true h.1, List.append_nil, modLine_waiting]
  · rw [if_pos rfl, handOverIf_eq]
    simp only [true_and, modLine_waiting, modLine_workItem]

/-- A fall of want on its own line (R96). -/
def lowerWant (l : Fin 16) (s : State) : State :=
  modLine l (fun ln => Line.withPin s.oe { ln with want := false, hold := false, blocked := false }) s

theorem dropWant_eq (l : Fin 16) (s : State) :
    dropWant l s = if (s.lines[l].hold && isExclusive l s) = true then takeOver (partner l) (lowerWant l s)
      else lowerWant l s := rfl

theorem dropWant_self (l : Fin 16) (s : State) :
    (dropWant l s).lines[l] =
      { s.lines[l] with want := false, hold := false, blocked := false, pinActive := false } := by
  rw [dropWant_eq]
  split
  · exact (modLine_other _ _ (partner_ne l).symm).trans (modLine_self l _ s)
  · exact modLine_self l _ s

/-- A fall of want hands hold over to the blocked exclusive partner (R96). -/
theorem dropWant_partner (l : Fin 16) (s : State) :
    (dropWant l s).lines[partner l] =
      if s.lines[l].hold = true ∧ s.exclusive[pairOf l] = true ∧ s.lines[partner l].blocked = true then
        { s.lines[partner l] with blocked := false, hold := true, pinActive := s.oe && !s.lines[partner l].cut }
      else s.lines[partner l] := by
  have mate : (lowerWant l s).lines[partner l] = s.lines[partner l] := modLine_other _ _ (partner_ne l)
  rw [dropWant_eq]
  split
  · next h =>
    obtain ⟨hh, he⟩ := Bool.and_eq_true_iff.mp h
    replace he : s.exclusive[pairOf l] = true := he
    simp only [takeOver, modLine_self, mate, hh, he, true_and]
    rfl
  · next h =>
    rw [mate, if_neg]
    exact fun ⟨hh, he, _⟩ => h (Bool.and_eq_true_iff.mpr ⟨hh, he⟩)

/-- A fall of want reaches no third line. -/
theorem dropWant_other {l k : Fin 16} (s : State) (hl : k ≠ l) (hp : k ≠ partner l) :
    (dropWant l s).lines[k] = s.lines[k] := by
  rw [dropWant_eq]
  split
  · exact (modLine_other _ _ hp).trans (modLine_other _ _ hl)
  · exact modLine_other _ _ hl

theorem dropWant_waiting (l : Fin 16) (s : State) : (dropWant l s).waiting = s.waiting := by
  rw [dropWant_eq]
  split <;> rfl

/-- What bringing want up to date can do (R92, R95, R96): nothing, where want is as it should be, a rise or a fall. -/
theorem updateWant_cases (i : Bool) (l : Fin 16) (s : State) :
    (s.lines[l].wants = s.lines[l].want ∧ updateWant i l s = s)
      ∨ (s.lines[l].wants = true ∧ s.lines[l].want = false ∧ updateWant i l s = raiseWant i l s)
      ∨ (s.lines[l].wants = false ∧ s.lines[l].want = true ∧ updateWant i l s = dropWant l s) := by
  unfold updateWant
  cases s.lines[l].wants <;> cases s.lines[l].want
  · exact .inl ⟨rfl, rfl⟩
  · exact .inr (.inr ⟨rfl, rfl, rfl⟩)
  · exact .inr (.inl ⟨rfl, rfl, rfl⟩)
  · exact .inl ⟨rfl, rfl⟩

/-! ## A line that is not wanted -/

/-- R83, R91, R95: a line that is not wanted neither holds nor is blocked. Of the laws of a line, what a rise of its want
rests on. -/
def Rests (ln : Line) : Prop :=
  ln.want = false → ln.hold = false ∧ ln.blocked = false

/-- Every line that is not wanted rests. -/
def LinesRest (s : State) : Prop :=
  ∀ l : Fin 16, Rests s.lines[l]

theorem rests_of_want {ln : Line} (h : ln.want = true) : Rests ln :=
  fun hw => absurd (h.symm.trans hw) (by decide)

theorem linesRest_of_outputLaw {s : State} (h : OutputLaw s) : LinesRest s := by
  intro l hw
  obtain ⟨⟨-, -, hhold, hblocked, -⟩, -⟩ := h l
  refine ⟨by rw [hhold, hw, Bool.false_and], ?_⟩
  cases hb : s.lines[l].blocked
  · rfl
  · rw [hblocked hb] at hw
    cases hw

theorem modLine_linesRest {l : Fin 16} {f : Line → Line} {s : State} (h : LinesRest s)
    (hf : Rests s.lines[l] → Rests (f s.lines[l])) : LinesRest (modLine l f s) := by
  intro k
  by_cases hk : k = l
  · subst hk
    rw [modLine_self]
    exact hf (h k)
  · rw [modLine_other _ _ hk]
    exact h k

theorem takeOver_linesRest (l : Fin 16) {s : State} (h : LinesRest s) : LinesRest (takeOver l s) := by
  refine modLine_linesRest h fun hr => ?_
  split
  · next hb => exact fun hw => absurd (hb.symm.trans (hr hw).2) (by decide)
  · exact hr

theorem updateWant_linesRest (i : Bool) (l : Fin 16) {s : State} (h : LinesRest s) :
    LinesRest (updateWant i l s) := by
  rcases updateWant_cases i l s with ⟨-, e⟩ | ⟨-, -, e⟩ | ⟨-, -, e⟩ <;> rw [e]
  · exact h
  · intro k
    rw [raiseWant_lines, get_set]
    split
    · exact rests_of_want (by split <;> rfl)
    · exact h k
  · have lowered : LinesRest (lowerWant l s) := modLine_linesRest h fun _ _ => ⟨rfl, rfl⟩
    rw [dropWant_eq]
    split
    · exact takeOver_linesRest _ lowered
    · exact lowered

theorem storeLine_linesRest (l : Fin 16) (p : LineProposal) {s : State} (h : LinesRest s) :
    LinesRest (storeLine l p s) := by
  have stored : LinesRest (modLine l (fun ln => { ln with
      polarity := p.polarity, cutMember := p.cutMember, conflictEvent := p.conflictEvent,
      conflictSeverity := p.conflictSeverity }) s) := modLine_linesRest h id
  unfold storeLine
  dsimp only
  split
  · exact takeOver_linesRest _ (takeOver_linesRest _ stored)
  · exact stored

/-- Whatever line command is taken, lines that are not wanted rest behind it (R93, R94, R101, R104 to R106). -/
theorem takeLineCommand_linesRest {s : State} (h : LinesRest s) : LinesRest (takeLineCommand s) := by
  unfold takeLineCommand
  split
  · unfold serveReadLine
    split <;> exact h
  split
  · unfold serveWriteLine
    dsimp only
    split
    · exact h
    split
    · exact h
    · exact storeLine_linesRest _ _ h
  split
  · unfold serveSilence
    split
    · exact h
    split
    · exact h
    · exact updateWant_linesRest _ _ (modLine_linesRest h id)
  split
  · unfold serveOverride
    split
    · exact h
    split
    · exact h
    · exact updateWant_linesRest _ _ (modLine_linesRest h id)
  split
  · unfold serveResume
    split
    · exact h
    · intro k
      simp only [complete_lines, refreshPins, get_mapVec]
      exact h k
  · exact h

/-! ## A change of a line, carried through -/

/-- A change of line `l` that leaves its want, hold and blocked alone, and what follows from its want (R92, R95, R96). -/
theorem updateWant_follows (i : Bool) {l : Fin 16} {f : Line → Line} {s : State} (hrest : Rests s.lines[l])
    (hwant : (f s.lines[l]).want = s.lines[l].want) (hhold : (f s.lines[l]).hold = s.lines[l].hold)
    (hblocked : (f s.lines[l]).blocked = s.lines[l].blocked) :
    LineFollows l (f s.lines[l]) s (updateWant i l (modLine l f s)) := by
  have self := modLine_self l f s
  have mate := modLine_other f s (partner_ne l)
  have hcases := updateWant_cases i l (modLine l f s)
  rw [self, hwant] at hcases
  rcases hcases with ⟨hw, e⟩ | ⟨hw, hv, e⟩ | ⟨hw, hv, e⟩ <;> rw [e]
  · refine ⟨fun k hk _ => modLine_other f s hk, fun _ => ⟨self, mate⟩, fun ht hf => ?_, fun ht hf => ?_⟩ <;>
      exact absurd (ht.symm.trans (hw.trans hf)) (by decide)
  · obtain ⟨hh, hb⟩ := hrest hv
    refine ⟨fun k hk _ => ?_, fun hsame => absurd (hw.symm.trans (hsame.trans hv)) (by decide), fun _ _ => ⟨?_, ?_⟩,
      fun hf => absurd (hw.symm.trans hf) (by decide)⟩
    · rw [raiseWant_lines, get_set_ne _ _ hk, modLine_other f s hk]
    · rw [raiseWant_lines, get_set_ne _ _ (partner_ne l), mate]
    · rw [raiseWant_lines, get_set_self, self, mate, withPin_blocked _ (hhold.trans hh),
        withPin_holding _ (hblocked.trans hb)]
      exact if_congr Bool.and_eq_true_iff rfl rfl
  · refine ⟨fun k hk hp => ?_, fun hsame => absurd (hw.symm.trans (hsame.trans hv)) (by decide),
      fun ht => absurd (hw.symm.trans ht) (by decide), fun _ _ => ⟨?_, ?_⟩⟩
    · rw [dropWant_other _ hk hp, modLine_other f s hk]
    · rw [dropWant_self, self]
    · rw [dropWant_partner, self, mate, hhold]
      rfl

/-- The CONFLICT record of such a change (R97). -/
theorem updateWant_waiting (i : Bool) {l : Fin 16} {f : Line → Line} {s : State} (hrest : Rests s.lines[l])
    (hwant : (f s.lines[l]).want = s.lines[l].want) (hblocked : (f s.lines[l]).blocked = s.lines[l].blocked)
    (hevent : (f s.lines[l]).conflictEvent = s.lines[l].conflictEvent)
    (hsev : (f s.lines[l]).conflictSeverity = s.lines[l].conflictSeverity) :
    (updateWant i l (modLine l f s)).waiting =
      s.waiting ++ conflictsOf i (some l) s (updateWant i l (modLine l f s)) := by
  have self := modLine_self l f s
  have hcases := updateWant_cases i l (modLine l f s)
  rw [self, hwant] at hcases
  rcases hcases with ⟨-, e⟩ | ⟨-, hv, e⟩ | ⟨-, -, e⟩ <;> rw [e]
  · have quiet : conflictsOf i (some l) s (modLine l f s) = [] := by
      simp only [conflictsOf, self, hblocked]
      exact if_neg fun ⟨ht, hf, _⟩ => absurd (ht.symm.trans hf) (by decide)
    rw [quiet, List.append_nil, modLine_waiting]
  · obtain ⟨-, hb⟩ := hrest hv
    rw [raiseWant_waiting, modLine_waiting, self]
    simp only [conflictsOf, raiseWant_lines, get_set_self, self, conflictRecord, hsev, hevent, hb, true_and]
    refine congrArg _ (if_congr (and_congr_left' ?_) rfl rfl)
    split
    · next h => exact iff_of_true h rfl
    · next h => exact iff_of_false h (by rw [Line.withPin, hblocked, hb]; exact Bool.false_ne_true)
  · simp only [conflictsOf, dropWant_self, dropWant_waiting, modLine_waiting, Bool.false_eq_true, false_and, if_false,
      List.append_nil]

/-- One contribution change (R84, R90 to R96). -/
theorem setContrib_follows {l : Fin 16} (n : Fin 32) (b : Bool) {s : State} (h : LinesRest s) :
    LineFollows l (contributing n b s.lines[l]) s (setContrib l n b s) := by
  rw [contributing_eq]
  exact updateWant_follows true (h l) rfl rfl rfl

/-- The CONFLICT record of a contribution change (R97). -/
theorem setContrib_waiting {l : Fin 16} (n : Fin 32) (b : Bool) {s : State} (h : LinesRest s) :
    (setContrib l n b s).waiting = s.waiting ++ conflictsOf true (some l) s (setContrib l n b s) :=
  updateWant_waiting true (h l) rfl rfl rfl rfl

/-! ## The line command that waits -/

/-- Whichever command waits first in the list is served by its row. -/
theorem waitingTaken_cons {c : Command} {i : Instr} {s t : State} (rest : List (Command × Instr))
    (h : exec i s = .next (if ready c s = true then t else s)) :
    waitingTaken ((c, i) :: rest) s = if ready c s = true then t else waitingTaken rest s := by
  rw [waitingTaken, h]
  by_cases hr : ready c s = true
  · rw [if_pos hr, if_pos (ready_iff.mp hr), if_pos hr]
  · rw [if_neg hr, if_neg fun hw => hr (ready_iff.mpr hw), if_neg hr]

/-- R84: what an event that reaches the output unit finds is what the model takes first. -/
theorem lineTaken_eq (s : State) : lineTaken s = takeLineCommand s := by
  rw [lineTaken, waitingTaken_cons _ (t := serveReadLine s) rfl, waitingTaken_cons _ (t := serveWriteLine s) rfl,
    waitingTaken_cons _ (t := serveSilence s) rfl, waitingTaken_cons _ (t := serveOverride s) rfl,
    waitingTaken_cons _ (t := serveResume s) rfl]
  rfl

/-- The state with another watch table. -/
def withEntries (es : Vector Entry 32) (s : State) : State :=
  { s with entries := es }

theorem modEntry_eq_withEntries (n : Fin 32) (f : Entry → Entry) (s : State) :
    modEntry n f s = withEntries (s.entries.set n (f s.entries[n])) s := rfl

theorem updateWant_withEntries (i : Bool) (l : Fin 16) (es : Vector Entry 32) (s : State) :
    updateWant i l (withEntries es s) = withEntries es (updateWant i l s) := by
  have hraise : raiseWant i l (withEntries es s) = withEntries es (raiseWant i l s) := by
    simp only [raiseWant, handOverIf_eq, apply_ite (withEntries es)]
    rfl
  have hdrop : dropWant l (withEntries es s) = withEntries es (dropWant l s) := by
    rw [dropWant_eq, dropWant_eq, apply_ite (withEntries es)]
    rfl
  unfold updateWant
  rw [hraise, hdrop, apply_ite (withEntries es), apply_ite (withEntries es)]
  rfl

theorem storeLine_withEntries (l : Fin 16) (p : LineProposal) (es : Vector Entry 32) (s : State) :
    storeLine l p (withEntries es s) = withEntries es (storeLine l p s) := by
  unfold storeLine
  dsimp only
  rw [apply_ite (withEntries es)]
  rfl

section
variable (es : Vector Entry 32) (s : State)

theorem serveReadLine_withEntries : serveReadLine (withEntries es s) = withEntries es (serveReadLine s) := by
  have harg : lineArg (withEntries es s) = lineArg s := rfl
  unfold serveReadLine
  rw [harg]
  cases lineArg s <;> rfl

theorem serveWriteLine_withEntries : serveWriteLine (withEntries es s) = withEntries es (serveWriteLine s) := by
  have harg : lineArg (withEntries es s) = lineArg s := rfl
  have hrefusal : ∀ (l : Fin 16) (p : LineProposal), lineRefusal l p (withEntries es s) = lineRefusal l p s :=
    fun _ _ => rfl
  have hseen : (withEntries es s).cmd.seen = s.cmd.seen := rfl
  simp only [serveWriteLine, harg, hrefusal, hseen, storeLine_withEntries]
  cases lineArg s with
  | none => rfl
  | some l => cases h : lineRefusal l (parseLine s.cmd.seen[0]) s <;> simp only [h] <;> rfl

theorem serveSilence_withEntries : serveSilence (withEntries es s) = withEntries es (serveSilence s) := by
  have harg : lineArg (withEntries es s) = lineArg s := rfl
  have hmod : ∀ (l : Fin 16) (f : Line → Line), modLine l f (withEntries es s) = withEntries es (modLine l f s) :=
    fun _ _ => rfl
  simp only [serveSilence, harg, hmod, updateWant_withEntries]
  cases lineArg s with
  | none => rfl
  | some l =>
    rw [apply_ite (withEntries es)]
    rfl

theorem serveOverride_withEntries : serveOverride (withEntries es s) = withEntries es (serveOverride s) := by
  have harg : lineArg (withEntries es s) = lineArg s := rfl
  have hmod : ∀ (l : Fin 16) (f : Line → Line), modLine l f (withEntries es s) = withEntries es (modLine l f s) :=
    fun _ _ => rfl
  have hmode : (withEntries es s).cmd.captured1 = s.cmd.captured1 := rfl
  simp only [serveOverride, harg, hmod, hmode, updateWant_withEntries]
  cases lineArg s with
  | none => rfl
  | some l => cases Override.ofCode s.cmd.captured1.toNat <;> rfl

theorem serveResume_withEntries : serveResume (withEntries es s) = withEntries es (serveResume s) := by
  unfold serveResume
  rw [apply_ite (withEntries es)]
  rfl

/-- A line command neither reads nor writes the watch table. -/
theorem takeLineCommand_withEntries : takeLineCommand (withEntries es s) = withEntries es (takeLineCommand s) := by
  have hready : ∀ c : Command, ready c (withEntries es s) = ready c s := fun _ => rfl
  simp only [takeLineCommand, hready, serveReadLine_withEntries, serveWriteLine_withEntries, serveSilence_withEntries,
    serveOverride_withEntries, serveResume_withEntries, apply_ite (withEntries es)]

end

/-- R84: a change of an entry and the taking of a waiting line command may change places. -/
theorem takeLineCommand_modEntry (n : Fin 32) (f : Entry → Entry) (s : State) :
    takeLineCommand (modEntry n f s) = modEntry n f (takeLineCommand s) := by
  rw [modEntry_eq_withEntries, modEntry_eq_withEntries, takeLineCommand_withEntries, takeLineCommand_entries]

end Sys2Proof.Contributions
end

section
/-! PROOFS. An entry handled whole in an evaluation (O46, O47). First the frame of the handling, then what an edge does to
its entry, the lines and what is handed over, then the transition, then the two inputs. -/

namespace Sys2Proof.Handling

open Sys2Proof.Machine Sys2Proof.Safety Sys2Proof.Claims Sys2Proof.WatchTable Sys2Proof.Contributions

/-! ## The frame -/

theorem frame_refl (n : Fin 32) (s : State) : HandlingFrame n s s :=
  ⟨rfl, fun _ _ => rfl, rfl⟩

theorem frame_trans {n : Fin 32} {s t u : State} (h : HandlingFrame n s t) (k : HandlingFrame n t u) :
    HandlingFrame n s u :=
  ⟨k.1.trans (by rw [h.1]), fun m hm => (k.2.1 m hm).trans (h.2.1 m hm), k.2.2.trans h.2.2⟩

theorem frame_of_lines {n : Fin 32} {s t : State} (h : LinesOnly s t) : HandlingFrame n s t := by
  have he : t.entries = s.entries := by rw [h]
  exact ⟨by rw [h], fun m _ => by rw [he], by rw [he]⟩

theorem frame_modEntry {n : Fin 32} {f : Entry → Entry} {s : State} (h : (f s.entries[n]).cfg = s.entries[n].cfg) :
    HandlingFrame n s (modEntry n f s) :=
  ⟨rfl, fun m hm => by rw [modEntry_entries, get_set_ne _ _ hm], by rw [modEntry_entries, get_set_self, h]⟩

theorem modEntry_self (n : Fin 32) (f : Entry → Entry) (s : State) : (modEntry n f s).entries[n] = f s.entries[n] := by
  rw [modEntry_entries, get_set_self]

theorem modEntry_modEntry (n : Fin 32) (f g : Entry → Entry) (s : State) :
    modEntry n g (modEntry n f s) = modEntry n (fun e => g (f e)) s := by
  have hset : (s.entries.set n (f s.entries[n])).set n (g (f s.entries[n])) = s.entries.set n (g (f s.entries[n])) :=
    Vector.set_set ..
  rw [modEntry, modEntry_self, modEntry_entries, hset]
  rfl

theorem modEntry_congr {n : Fin 32} {f g : Entry → Entry} {s : State} (h : f s.entries[n] = g s.entries[n]) :
    modEntry n f s = modEntry n g s := by
  rw [modEntry, h]
  rfl

theorem modEntry_of_same {n : Fin 32} {f : Entry → Entry} {s : State} (h : f s.entries[n] = s.entries[n]) :
    modEntry n f s = s := by
  rw [modEntry, h]
  exact congrArg (fun es => { s with entries := es }) (Vector.set_getElem_self ..)

/-! ## The contribution step -/

/-- R85, R86, R88: the contribution change an edge makes by the shaping mode, if it makes one. -/
def contribChange : Shaping → Direction → Option Bool
  | .level, .trip | .pulse, .trip | .blink, .trip => some true
  | .level, .clear | .blink, .clear => some false
  | .pulse, .clear => none

/-- R86, R88: what an edge makes of the entry's shaping timer and phase. -/
def shaped (dir : Direction) (e : Entry) : Entry :=
  match e.cfg.shaping, dir with
  | .level, _ | .pulse, .clear => e
  | .pulse, .trip => Entry.loadShape e.cfg.shapeTicks e
  | .blink, .trip => Entry.loadShape e.cfg.shapeTicks { e with phase := true }
  | .blink, .clear => Entry.cancelShape { e with phase := false }

/-- A contribution change, if there is one. -/
def setContribIf (l : Fin 16) (n : Fin 32) (b : Option Bool) (s : State) : State :=
  match b with
  | none => s
  | some b => setContrib l n b s

/-- The contribution step once the output unit is reached: the shaping timer and phase, then the contribution change. -/
def contribute (n : Fin 32) (dir : Direction) (s : State) : State :=
  match s.entries[n].cfg.output with
  | none => s
  | some l => setContribIf l n (contribChange s.entries[n].cfg.shaping dir) (modEntry n (shaped dir) s)

theorem claims_eq (t : Timer) : t.claims = voided t := by
  cases t <;> rfl

theorem shaped_cfg (dir : Direction) (e : Entry) : (shaped dir e).cfg = e.cfg := by
  unfold shaped
  split <;> rfl

/-- R84: `reached` is the state the contribution step works on. -/
theorem reached_eq (n : Fin 32) (dir : Direction) (s : State) :
    reached n (some dir) s = match s.entries[n].cfg.output with | none => s | some _ => takeLineCommand s := by
  unfold reached
  cases s.entries[n].cfg.output with
  | none => exact if_neg fun h => h.2 rfl
  | some l => exact (if_pos ⟨nofun, nofun⟩).trans (lineTaken_eq s)

theorem reached_entries (n : Fin 32) (d : Option Direction) (s : State) : (reached n d s).entries = s.entries := by
  unfold reached
  split
  · rw [lineTaken_eq, takeLineCommand_entries]
  · rfl

theorem reached_linesRest (n : Fin 32) (d : Option Direction) {s : State} (h : LinesRest s) :
    LinesRest (reached n d s) := by
  unfold reached
  split
  · rw [lineTaken_eq]
    exact takeLineCommand_linesRest h
  · exact h

theorem reached_modEntry {n : Fin 32} (d : Option Direction) {f : Entry → Entry} {s : State}
    (h : (f s.entries[n]).cfg = s.entries[n].cfg) : reached n d (modEntry n f s) = modEntry n f (reached n d s) := by
  unfold reached
  rw [modEntry_self, h, lineTaken_eq, lineTaken_eq, takeLineCommand_modEntry, apply_ite (modEntry n f)]

/-- The contribution step is the work of the output unit on the state it finds (R15, R84). -/
theorem contributionStep_eq (n : Fin 32) (dir : Direction) (s : State) :
    contributionStep n dir s = contribute n dir (reached n (some dir) s) := by
  unfold contribute contributionStep
  rw [reached_entries, reached_eq]
  dsimp only
  cases s.entries[n].cfg.output with
  | none => rfl
  | some l =>
    have shape {f : Entry → Entry} (h : f s.entries[n] = shaped dir s.entries[n]) :
        modEntry n f (takeLineCommand s) = modEntry n (shaped dir) (takeLineCommand s) :=
      modEntry_congr (by rw [takeLineCommand_entries, h])
    have keep (h : s.entries[n] = shaped dir s.entries[n]) :
        takeLineCommand s = modEntry n (shaped dir) (takeLineCommand s) :=
      (modEntry_of_same (by rw [takeLineCommand_entries, ← h])).symm
    cases hs : s.entries[n].cfg.shaping <;> cases dir
    case level.trip | level.clear => exact congrArg (setContrib l n _) (keep (by simp only [shaped, hs]))
    case pulse.clear => exact keep (by simp only [shaped, hs])
    case pulse.trip | blink.trip | blink.clear =>
      exact congrArg (setContrib l n _) (shape (by simp only [shaped, hs]))

theorem setContribIf_frame (l : Fin 16) (n : Fin 32) (b : Option Bool) (s : State) :
    LinesOnly s (setContribIf l n b s) := by
  cases b
  · rfl
  · exact setContrib_frame _ _ _ _

theorem setContribIf_entries (l : Fin 16) (n : Fin 32) (b : Option Bool) (s : State) :
    (setContribIf l n b s).entries = s.entries := by
  rw [setContribIf_frame l n b s]

theorem contribute_frame (n : Fin 32) (dir : Direction) (s : State) : HandlingFrame n s (contribute n dir s) := by
  unfold contribute
  split
  · exact frame_refl n s
  · exact frame_trans (frame_modEntry (shaped_cfg _ _)) (frame_of_lines (setContribIf_frame _ _ _ _))

theorem contribute_captures (n : Fin 32) (dir : Direction) (s : State) :
    (contribute n dir s).captures = s.captures := by
  unfold contribute
  split
  · rfl
  · rw [setContribIf_frame]
    rfl

/-- What the output unit does at an edge is the contribution step of the claims (R15, R85, R86, R88). -/
theorem contribute_step (n : Fin 32) (dir : Direction) {s : State} (h : LinesRest s) :
    ContributionStep n dir s (contribute n dir s) := by
  unfold contribute
  refine ⟨fun ho => by rw [ho]; exact ⟨rfl, rfl, rfl, rfl⟩, fun ho => ?_⟩
  obtain ⟨l, hl⟩ := Option.ne_none_iff_exists'.mp ho
  have follows (b : Bool) : ContributionFollows n b s (setContrib l n b (modEntry n (shaped dir) s)) := by
    refine ⟨fun hn => absurd hn ho, fun k hk => ?_⟩
    obtain rfl : l = k := Option.some.inj (hl.symm.trans hk)
    exact setContrib_follows (s := modEntry n (shaped dir) s) n b h
  have entry (b : Option Bool) :
      (setContribIf l n b (modEntry n (shaped dir) s)).entries[n] = shaped dir s.entries[n] := by
    rw [setContribIf_entries, modEntry_self]
  simp only [hl]
  cases hs : s.entries[n].cfg.shaping <;> cases dir <;>
    simp only [contribChange, ShapingKept, ShapingSet, entry, shaped, hs, Entry.loadShape, Entry.cancelShape, claims_eq,
      and_self, and_true]
  case level.trip | blink.trip | pulse.trip => exact follows true
  case level.clear | blink.clear => exact follows false
  case pulse.clear => rfl

/-- Lines that are as they were raise no CONFLICT (R97). -/
theorem conflictsOf_same (i : Bool) (o : Option (Fin 16)) {s t : State} (h : t.lines = s.lines) :
    conflictsOf i o s t = [] := by
  unfold conflictsOf
  cases o with
  | none => rfl
  | some l =>
    simp only [h]
    exact if_neg fun ⟨ht, hf, _⟩ => absurd (ht.symm.trans hf) (by decide)

/-- The contribution step hands over the CONFLICT record of a blocking, and no other record (R97). -/
theorem contribute_waiting (n : Fin 32) (dir : Direction) {s : State} (h : LinesRest s) :
    (contribute n dir s).waiting =
      s.waiting ++ conflictsOf true s.entries[n].cfg.output s (contribute n dir s) := by
  unfold contribute
  cases s.entries[n].cfg.output with
  | none => exact (List.append_nil _).symm
  | some l =>
    dsimp only
    cases contribChange s.entries[n].cfg.shaping dir with
    | none =>
      have quiet : conflictsOf true (some l) s (setContribIf l n none (modEntry n (shaped dir) s)) = [] :=
        conflictsOf_same true _ rfl
      rw [quiet, List.append_nil]
      rfl
    | some b => exact setContrib_waiting (s := modEntry n (shaped dir) s) n b h

/-! ## Edges -/

theorem captureHandOver_frame (n : Fin 32) (g : Edge) (s : State) :
    captureHandOver n g s = { s with
      captures := s.captures ++ capturesOf s.entries[n].cfg g.dir g.value s.entries[n].effLimit } := by
  have fits : ∀ (c : CaptureEdge) (d : Direction), c.fits d = true ↔
      c = .both ∨ (c = .trip ∧ d = .trip) ∨ (c = .clear ∧ d = .clear) := by
    intro c d
    cases c <;> cases d <;> decide
  unfold captureHandOver capturesOf
  dsimp only
  cases s.entries[n].cfg.captureAcc with
  | none => simp only [List.append_nil]
  | some a =>
    simp only [← fits]
    split
    · rfl
    · simp only [List.append_nil]

theorem recordStep_frame (n : Fin 32) (g : Edge) (s : State) :
    recordStep n g s = { s with
      waiting := s.waiting ++
        recordsOf n s.entries[n].cfg g.dir g.value g.fromTimer g.byRelease s.workItem } := by
  have wanted : recordWanted s.entries[n] g.dir = true ↔
      (g.dir = .trip ∧ s.entries[n].cfg.eventTrip = true) ∨ (g.dir = .clear ∧ s.entries[n].cfg.eventClear = true) := by
    cases g.dir <;> simp [recordWanted]
  have kind : (edgeRecord n s.entries[n] g).kind = if g.dir = .trip then .trip n else .clear n := by
    unfold edgeRecord
    cases g.dir <;> rfl
  rw [recordStep, handOverIf_eq, recordsOf, ← kind]
  simp only [wanted]
  rfl

/-- What an edge does once the output unit is reached (R14): the count, then the three effects. -/
theorem edge_eq (n : Fin 32) (g : Edge) (s : State) :
    edge n g s = recordStep n g (captureHandOver n g
      (contribute n g.dir (modEntry n (Entry.counted g.dir) (reached n (some g.dir) s)))) := by
  rw [edge, contributionStep_eq, reached_modEntry _ (by cases g.dir <;> rfl)]

theorem edge_frame (n : Fin 32) (g : Edge) (s : State) :
    HandlingFrame n (reached n (some g.dir) s) (edge n g s) := by
  rw [edge_eq, recordStep_frame, captureHandOver_frame]
  have counted : ∀ u : State, HandlingFrame n u (contribute n g.dir (modEntry n (Entry.counted g.dir) u)) :=
    fun u => frame_trans (frame_modEntry (by cases g.dir <;> rfl)) (contribute_frame n g.dir _)
  exact frame_trans (counted _) ⟨rfl, fun _ _ => rfl, rfl⟩

/-- The two entries agree in what the contribution step goes by: configuration, shaping timer and phase. -/
structure SameAtEdge (e e' : Entry) : Prop where
  cfg : e'.cfg = e.cfg
  shape : e'.shape = e.shape
  void : e'.shapeVoid = e.shapeVoid
  phase : e'.phase = e.phase

theorem contributionStep_modEntry {n : Fin 32} {dir : Direction} {f : Entry → Entry} {s t : State}
    (h : SameAtEdge s.entries[n] (f s.entries[n])) (k : ContributionStep n dir (modEntry n f s) t) :
    ContributionStep n dir s t := by
  obtain ⟨hcfg, hshape, hvoid, hphase⟩ := h
  simp only [ContributionStep, ContributionFollows, ShapingKept, ShapingSet, modEntry_self, hcfg, hshape, hvoid,
    hphase] at k
  exact k

theorem edgeEffects_modEntry {n : Fin 32} {dir : Direction} {v : Option Half} {fromTimer byRelease : Bool}
    {f : Entry → Entry} {s t : State} (h : SameAtEdge s.entries[n] (f s.entries[n]))
    (hcount : (f s.entries[n]).tripCount = s.entries[n].tripCount)
    (k : EdgeEffects n dir v fromTimer byRelease (modEntry n f s) t) :
    EdgeEffects n dir v fromTimer byRelease s t := by
  obtain ⟨kcount, kstep, kcaptures, kwaiting⟩ := k
  rw [modEntry_self] at kcount kcaptures kwaiting
  rw [h.cfg] at kcaptures kwaiting
  exact ⟨hcount ▸ kcount, contributionStep_modEntry h kstep, kcaptures, kwaiting⟩

theorem counted_tripCount (dir : Direction) (e : Entry) : (e.counted dir).tripCount.toNat =
    if dir = .trip then min 65535 (e.tripCount.toNat + 1) else e.tripCount.toNat := by
  cases dir with
  | trip => exact satInc_toNat (by decide) e.tripCount
  | clear => rfl

theorem counted_sameAtEdge (dir : Direction) (e : Entry) : SameAtEdge e (e.counted dir) := by
  cases dir <;> exact ⟨rfl, rfl, rfl, rfl⟩

/-- An edge between the state the output unit is reached in and the state behind the edge (R14 to R17, R84). -/
theorem edge_effects (n : Fin 32) (g : Edge) {s : State} (h : LinesRest s) :
    EdgeEffects n g.dir g.value g.fromTimer g.byRelease (reached n (some g.dir) s) (edge n g s) := by
  have hcount : (edge n g s).entries[n].tripCount = (s.entries[n].counted g.dir).tripCount := by
    obtain ⟨shape, void, phase, he, -⟩ := edge_entry n g s
    rw [he]
  rw [← reached_entries n (some g.dir) s] at hcount
  have hrest : LinesRest (reached n (some g.dir) s) := reached_linesRest n _ h
  rw [edge_eq, recordStep_frame, captureHandOver_frame] at hcount ⊢
  generalize reached n (some g.dir) s = u at hrest hcount ⊢
  have hcfg : (contribute n g.dir (modEntry n (Entry.counted g.dir) u)).entries[n].cfg = u.entries[n].cfg := by
    rw [(contribute_frame n g.dir _).2.2, modEntry_self, (counted_sameAtEdge _ _).cfg]
  have hitem : (contribute n g.dir (modEntry n (Entry.counted g.dir) u)).workItem = u.workItem := by
    rw [(contribute_frame n g.dir _).1, modEntry_workItem]
  have hwaiting := contribute_waiting n g.dir (s := modEntry n (Entry.counted g.dir) u) hrest
  rw [modEntry_self, (counted_sameAtEdge _ _).cfg] at hwaiting
  refine ⟨by rw [hcount, counted_tripCount],
    contributionStep_modEntry (counted_sameAtEdge _ _) (contribute_step n g.dir hrest), ?_, ?_⟩
  · simp only [contribute_captures, hcfg, modEntry_captures]
  · simp only [hwaiting, hcfg, hitem, modEntry_waiting]
    rfl

/-! ## The transition -/

/-- An entry in a new state, its qualification timer loaded or cancelled, or left alone (R42, R45). -/
def movedTo (st : EntryState) (timer : Option Timer) (e : Entry) : Entry :=
  match timer with
  | none => { e with state := st }
  | some t => { e with state := st, qual := t, qualVoid := e.qualVoid + voided e.qual }

theorem movedTo_same {e : Entry} {st : EntryState} (h : e.state = st) : movedTo st none e = e := by
  subst h
  rfl

theorem loadQual_eq (d : Half) (st : EntryState) (e : Entry) :
    Entry.loadQual d { e with state := st } = movedTo st (some (.running d)) e := by
  rw [Entry.loadQual, claims_eq]
  rfl

theorem cancelQual_eq (st : EntryState) (e : Entry) :
    Entry.cancelQual { e with state := st } = movedTo st (some .unloaded) e := by
  rw [Entry.cancelQual, claims_eq]
  rfl

/-- What the transition does (R45 to R51): a move without an edge, or a move with one. -/
theorem transition_eq (n : Fin 32) (active : Bool) (v : Option Half) (s : State) :
    transition n active v s = match (moved s.entries[n] active).2.1 with
      | none => modEntry n (movedTo (moved s.entries[n] active).1 (moved s.entries[n] active).2.2) s
      | some dir => moveWithEdge n (moved s.entries[n] active).1
          { dir := dir, value := v, fromTimer := false, byRelease := false } s := by
  have stay {st : EntryState} (h : s.entries[n].state = st) : s = modEntry n (movedTo st none) s :=
    (modEntry_of_same (movedTo_same h)).symm
  cases hst : s.entries[n].state <;> cases active <;>
    simp only [transition, moved, hst, loadQual_eq, cancelQual_eq]
  case disarmed.false | disarmed.true | inhibited.true | normal.false | pendingTrip.true | tripped.true
      | pendingClear.false | held.false => exact stay hst
  case inhibited.false | held.true => rfl
  case normal.true => split <;> rfl
  case tripped.false =>
    split
    · rfl
    · split <;> rfl

/-- A move with an edge leaves the qualification timer alone. -/
theorem moved_edge_timer {e : Entry} {active : Bool} {dir : Direction} (h : (moved e active).2.1 = some dir) :
    (moved e active).2.2 = none := by
  revert h
  unfold moved
  split
  case h_2 =>
    split
    · exact fun _ => rfl
    · nofun
  case h_4 =>
    split
    · nofun
    · split
      · exact fun _ => rfl
      · nofun
  all_goals nofun

/-! ## An entry handled -/

/-- R28, R29, R31, R32: what an input writes to an entry before the transition: the effective limit, the condition, the last
value. -/
def takesInput (limit : Half) (active : Bool) (v : Option Half) (e : Entry) : Entry :=
  { e with effLimit := limit, condition := active, lastValue := v }

/-- An entry that takes an active or inactive input, and makes its transition with the value as edge value. -/
def handleInput (n : Fin 32) (limit : Half) (active : Bool) (v : Option Half) (s : State) : State :=
  transition n active v (modEntry n (takesInput limit active v) s)

/-- An entry behind its input and its move to another state. -/
def inputMoved (limit : Half) (active : Bool) (v : Option Half) (st : EntryState) (timer : Option Timer) (e : Entry) :
    Entry :=
  movedTo st timer (takesInput limit active v e)

/-- The edge of a transition (R52). -/
def inputEdge (dir : Direction) (v : Option Half) : Edge :=
  { dir := dir, value := v, fromTimer := false, byRelease := false }

/-- The transition of an input without an edge. -/
theorem handleInput_of_no_edge {n : Fin 32} {active : Bool} {s : State} (limit : Half) (v : Option Half)
    (h : (moved s.entries[n] active).2.1 = none) :
    handleInput n limit active v s =
      modEntry n (inputMoved limit active v (moved s.entries[n] active).1 (moved s.entries[n] active).2.2) s := by
  have hm : moved (takesInput limit active v s.entries[n]) active = moved s.entries[n] active := rfl
  rw [handleInput, transition_eq, modEntry_self, hm, h]
  exact modEntry_modEntry _ _ _ _

/-- The transition of an input with an edge. -/
theorem handleInput_of_edge {n : Fin 32} {active : Bool} {dir : Direction} {s : State} (limit : Half) (v : Option Half)
    (h : (moved s.entries[n] active).2.1 = some dir) :
    handleInput n limit active v s =
      edge n (inputEdge dir v) (modEntry n
        (inputMoved limit active v (moved s.entries[n] active).1 none) s) := by
  have hm : moved (takesInput limit active v s.entries[n]) active = moved s.entries[n] active := rfl
  rw [handleInput, transition_eq, modEntry_self, hm, h]
  exact congrArg (edge n _) (modEntry_modEntry _ _ _ _)

/-- What an edge leaves of its entry: all but the trip count and what the contribution step moves. -/
theorem edge_entry_fields (n : Fin 32) (g : Edge) (s : State) :
    ∃ (count : Half) (shape : Timer) (void : Nat) (phase : Bool), (edge n g s).entries[n] =
      { s.entries[n] with tripCount := count, shape := shape, shapeVoid := void, phase := phase } := by
  obtain ⟨shape, void, phase, he, -⟩ := edge_entry n g s
  refine ⟨(s.entries[n].counted g.dir).tripCount, shape, void, phase, he.trans ?_⟩
  cases g.dir <;> rfl

/-- What the handling of entry `n` makes of it between `u` and `t`: the fields the input writes, and the move (R28, R31,
R32, R37, R45 to R52). -/
structure Handled (n : Fin 32) (limit : Half) (active : Bool) (v : Option Half) (u t : State) : Prop where
  frame : HandlingFrame n u t
  effLimit : t.entries[n].effLimit = limit
  lastValue : t.entries[n].lastValue = v
  condition : t.entries[n].condition = active
  moves : Moves n active v u t

section
variable {n : Fin 32} (limit : Half) {active : Bool} (v : Option Half) {s : State}

/-- A transition without an edge writes its entry and nothing else. -/
theorem handleInput_handled_of_no_edge (hd : (moved s.entries[n] active).2.1 = none) :
    Handled n limit active v s (handleInput n limit active v s) := by
  rw [handleInput_of_no_edge limit v hd]
  have hentry := modEntry_self n
    (inputMoved limit active v (moved s.entries[n] active).1 (moved s.entries[n] active).2.2) s
  cases ht : (moved s.entries[n] active).2.2 <;> rw [ht] at hentry <;>
    refine ⟨frame_modEntry rfl, by rw [hentry]; rfl, by rw [hentry]; rfl, by rw [hentry]; rfl, ?_⟩ <;>
    simp only [Moves, NoEdge, ShapingKept, hd, ht, hentry]
  all_goals exact ⟨rfl, ⟨rfl, rfl⟩, rfl, ⟨rfl, rfl, rfl⟩, rfl, rfl, rfl⟩

/-- A transition with an edge: the output unit is reached, and the edge has its effects (R14, R84). -/
theorem handleInput_handled_of_edge {dir : Direction} (h : LinesRest s)
    (hd : (moved s.entries[n] active).2.1 = some dir) :
    Handled n limit active v (reached n (some dir) s) (handleInput n limit active v s) := by
  rw [handleInput_of_edge limit v hd]
  have hentries := reached_entries n (some dir) s
  have hbase : reached n (some dir) (modEntry n (inputMoved limit active v (moved s.entries[n] active).1 none) s) =
      modEntry n _ (reached n (some dir) s) := reached_modEntry _ rfl
  have hframe := edge_frame n (inputEdge dir v)
    (modEntry n (inputMoved limit active v (moved s.entries[n] active).1 none) s)
  have heffects := edge_effects n (inputEdge dir v)
    (s := modEntry n (inputMoved limit active v (moved s.entries[n] active).1 none) s) h
  obtain ⟨count, shape, void, phase, hentry⟩ := edge_entry_fields n (inputEdge dir v)
    (modEntry n (inputMoved limit active v (moved s.entries[n] active).1 none) s)
  rw [inputEdge, hbase] at hframe heffects
  rw [modEntry_self] at hentry
  refine ⟨frame_trans (frame_modEntry rfl) hframe, by rw [hentry]; rfl, by rw [hentry]; rfl, by rw [hentry]; rfl, ?_⟩
  simp only [Moves, hentries, hd, moved_edge_timer hd]
  exact ⟨by rw [hentry]; rfl, ⟨by rw [hentry]; rfl, by rw [hentry]; rfl⟩,
    edgeEffects_modEntry ⟨rfl, rfl, rfl, rfl⟩ rfl heffects⟩

theorem handleInput_handled (active : Bool) (h : LinesRest s) :
    Handled n limit active v (reached n (moved s.entries[n] active).2.1 s) (handleInput n limit active v s) := by
  cases hd : (moved s.entries[n] active).2.1 with
  | none => exact handleInput_handled_of_no_edge limit v hd
  | some dir => exact handleInput_handled_of_edge limit v h hd

end

/-! ## The two inputs of an evaluation -/

/-- The effective limit is that of R19. -/
theorem effectiveLimit_limitOf (n : Fin 32) (s : State) : LimitOf n s (effectiveLimit s.entries s.entries[n].cfg) := by
  unfold effectiveLimit
  refine ⟨fun h => by rw [h], fun k h => ?_⟩
  rw [h]
  exact sat16_toInt _

theorem handleGood_eq (n : Fin 32) (v : Half) (s : State) :
    handleGood n v s = handleInput n (effectiveLimit s.entries s.entries[n].cfg)
      (newCondition s.entries[n].cfg s.entries[n].condition
        (effectiveLimit s.entries s.entries[n].cfg).toInt v.toInt) (some v) s := rfl

/-- Fault input where the policy does not apply: the effective limit and the absent last value (R29, R30, R33). -/
theorem handleFault_of_held {n : Fin 32} {s : State}
    (h : s.entries[n].state = .inhibited ∨ s.entries[n].cfg.faultPolicy = .hold) :
    handleFault n s = modEntry n
      (takesInput (effectiveLimit s.entries s.entries[n].cfg) s.entries[n].condition none) s := by
  unfold handleFault
  dsimp only
  split
  · rfl
  · next hi =>
    rw [h.resolve_left fun hs => hi (by rw [hs]; rfl)]
    rfl

/-- Under HOLD and in INHIBITED fault input leaves condition, state and timer alone, and makes no edge (R30, R33). -/
theorem handleFault_held_keeps {n : Fin 32} {s t : State}
    (h : s.entries[n].state = .inhibited ∨ s.entries[n].cfg.faultPolicy = .hold) (ht : t = handleFault n s) :
    HandlingFrame n s t
      ∧ t.entries[n].condition = s.entries[n].condition ∧ t.entries[n].state = s.entries[n].state
      ∧ t.entries[n].qual = s.entries[n].qual ∧ t.entries[n].qualVoid = s.entries[n].qualVoid ∧ NoEdge n s t := by
  rw [handleFault_of_held h] at ht
  have hentry : t.entries[n] = takesInput _ _ _ s.entries[n] := ht ▸ modEntry_self ..
  refine ⟨by rw [ht]; exact frame_modEntry rfl, ?_⟩
  simp only [NoEdge, ShapingKept, hentry]
  rw [ht]
  exact ⟨rfl, rfl, rfl, rfl, rfl, ⟨rfl, rfl, rfl⟩, rfl, rfl, rfl⟩

/-- Fault input under TRIP is an active input, under CLEAR an inactive one, with no value (R31, R32). -/
theorem handleFault_of_policy {n : Fin 32} {s : State} (hi : s.entries[n].state ≠ .inhibited) :
    (s.entries[n].cfg.faultPolicy = .trip →
        handleFault n s = handleInput n (effectiveLimit s.entries s.entries[n].cfg) true none s)
      ∧ (s.entries[n].cfg.faultPolicy = .clear →
        handleFault n s = handleInput n (effectiveLimit s.entries s.entries[n].cfg) false none s) := by
  have hb : (s.entries[n].state == .inhibited) = false := beq_false_of_ne hi
  constructor <;> intro hp <;> unfold handleFault <;> dsimp only <;> rw [hb, hp] <;>
    exact congrArg (transition n _ none) (modEntry_modEntry _ _ _ _)

/-- The next bound entry is the one the engine is to handle. -/
theorem evaluation_advance_handles {c : Fin 16} {input : EvalInput} {k : Nat} {n : Fin 32} {s : State}
    (h : HandlesNext c input k n s) :
    exec (.evaluation .advance) s = .next { handleEntry n input s with engine := .handling c input (n.val + 1) } := by
  obtain ⟨he, hk, hb, hfirst⟩ := h
  have bound : ∀ m : Fin 32, isBound c m s = true ↔ Bound c m s := fun m => by
    rw [isBound, Bool.and_eq_true, bne_iff_ne, beq_iff_eq]
  have hnext : nextBound c k s = some n := by
    rw [nextBound, find_finRange_eq_some, Bool.and_eq_true, decide_eq_true_iff]
    refine ⟨⟨hk, (bound n).mpr hb⟩, fun m hm => ?_⟩
    rw [Bool.and_eq_false_imp, decide_eq_true_iff]
    exact fun hkm => Bool.eq_false_iff.mpr fun hm' => hfirst m hkm hm ((bound m).mp hm')
  have hstep : exec (.evaluation .advance) s = .next (evaluationStep s) := rfl
  rw [hstep, evaluationStep, he]
  simp only [hnext]

/-- Settles O46: a good value is an input whose condition is that of the two tests. -/
theorem goodValueMovesTheEntry : Obligations.GoodValueMovesTheEntry := by
  intro s c v k n hlaw hnext
  have hh := handleInput_handled (n := n) (effectiveLimit s.entries s.entries[n].cfg) (some v)
    (newCondition s.entries[n].cfg s.entries[n].condition (effectiveLimit s.entries s.entries[n].cfg).toInt v.toInt)
    (linesRest_of_outputLaw hlaw)
  rw [← handleGood_eq] at hh
  refine ⟨handleGood n v s, _, evaluation_advance_handles hnext, rfl, ?_⟩
  rw [hh.condition, hh.effLimit]
  exact ⟨hh.frame, effectiveLimit_limitOf n s, hh.lastValue, rfl, hh.moves⟩

/-- Settles O47: fault input writes limit and last value and no more, or is an active or an inactive input. -/
theorem faultInputFollowsThePolicy : Obligations.FaultInputFollowsThePolicy := by
  intro s c k n hlaw hnext
  have handled := fun active => handleInput_handled (n := n) (effectiveLimit s.entries s.entries[n].cfg) none active
    (linesRest_of_outputLaw hlaw)
  have hlimit := effectiveLimit_limitOf n s
  refine ⟨handleFault n s, evaluation_advance_handles hnext, ?_⟩
  by_cases hheld : s.entries[n].state = .inhibited ∨ s.entries[n].cfg.faultPolicy = .hold
  · have hentry := modEntry_self n
      (takesInput (effectiveLimit s.entries s.entries[n].cfg) s.entries[n].condition none) s
    rw [← handleFault_of_held hheld] at hentry
    refine ⟨by rw [hentry]; exact hlimit, by rw [hentry]; rfl, fun _ => handleFault_held_keeps hheld rfl,
      fun u hi hp => ?_, fun u hi hp => ?_⟩
    all_goals
      rw [hp] at hheld
      exact absurd hheld (not_or.mpr ⟨hi, nofun⟩)
  · obtain ⟨hi, hhold⟩ := not_or.mp hheld
    cases hpolicy : s.entries[n].cfg.faultPolicy with
    | hold => exact absurd hpolicy hhold
    | trip =>
      have h := handled true
      rw [← (handleFault_of_policy hi).1 hpolicy] at h
      refine ⟨by rw [h.effLimit]; exact hlimit, h.lastValue,
        fun hn => absurd hn (not_or.mpr ⟨hi, nofun⟩), fun u _ _ hu => ?_, fun u _ hp => absurd hp nofun⟩
      rw [hu]
      exact ⟨h.frame, h.condition, h.moves⟩
    | clear =>
      have h := handled false
      rw [← (handleFault_of_policy hi).2 hpolicy] at h
      refine ⟨by rw [h.effLimit]; exact hlimit, h.lastValue,
        fun hn => absurd hn (not_or.mpr ⟨hi, nofun⟩), fun u _ hp => absurd hp nofun, fun u _ _ hu => ?_⟩
      rw [hu]
      exact ⟨h.frame, h.condition, h.moves⟩

end Sys2Proof.Handling
end

section
/-! PROOFS. The table commands on entries and channels. -/

namespace Sys2Proof.TableCommands

open Sys2Proof.Machine Sys2Proof.Safety Sys2Proof.Claims Sys2Proof.Images Sys2Proof.Handling

theorem channelArg_of_index {s : State} {c : Fin 16} (h : Index c s) : channelArg s = some c :=
  indexOf_eq_some.mpr h

/-- R39: a channel is in use exactly when an armed entry is bound to it. -/
theorem channelInUse_iff {c : Fin 16} {s : State} : channelInUse c s = true ↔ ∃ m : Fin 32, Bound c m s := by
  simp only [channelInUse, List.any_eq_true, List.mem_finRange, true_and, Bool.and_eq_true, bne_iff_ne, beq_iff_eq]

section
variable {s : State} {n : Fin 32} {c : Fin 16}

/-- ARM of an entry, served (R53). -/
theorem arm_served (hs : Served .arm s) (hn : Index n s) :
    exec .arm s = .next (
      if s.entries[n].state ≠ .disarmed then served .already s
      else if s.channels[s.entries[n].cfg.channel].state = .off then served .channelOff s
      else served .ok (modEntry n (Entry.armTime (effectiveLimit s.entries s.entries[n].cfg)) s)) := by
  rw [exec, execArm, if_pos (tableReady_of_served hs), entryArg_of_index hn]
  simp only [bne_iff_ne, beq_iff_eq, endService_eq_served, apply_ite Host.Outcome.next]

/-- What DISARM does to its entry before the withdrawal (R54). -/
def disarmed (e : Entry) : Entry :=
  Entry.cancelQual { e with state := .disarmed }

/-- DISARM of an entry, served (R54). -/
theorem disarm_served (hs : Served .disarm s) (hn : Index n s) :
    exec .disarm s = .next (
      if s.entries[n].state = .disarmed then served .notArmed s
      else served .ok (withdraw n (modEntry n disarmed s))) := by
  rw [exec, execDisarm, if_pos (tableReady_of_served hs), entryArg_of_index hn]
  simp only [beq_iff_eq, endService_eq_served, apply_ite Host.Outcome.next]
  rfl

/-- RELEASE of an entry, served (R55). -/
theorem release_served (hs : Served .release s) (hn : Index n s) :
    exec .release s = .next (
      if s.entries[n].state = .disarmed then served .notArmed s
      else if s.entries[n].state = .held then served .ok (releaseEntry n s)
      else served .notHeld s) := by
  rw [exec, execRelease, if_pos (tableReady_of_served hs), entryArg_of_index hn]
  dsimp only
  cases s.entries[n].state <;> rfl

/-- ENABLE of a channel, served (R136). -/
theorem enable_served (hs : Served .enable s) (hc : Index c s) :
    exec .enable s = .next (
      if s.channels[c].state ≠ .off then served .already s else served .ok (modChannel c Channel.enabled s)) := by
  rw [exec, execEnable, if_pos (tableReady_of_served hs), channelArg_of_index hc]
  simp only [bne_iff_ne, endService_eq_served, apply_ite Host.Outcome.next]

/-- DISABLE of a channel, served (R137). -/
theorem disable_served (hs : Served .disable s) (hc : Index c s) :
    exec .disable s = .next (
      if ∃ m : Fin 32, Bound c m s then served .inUse s
      else if s.channels[c].state = .off then served .already s
      else served .ok (modChannel c Channel.disabled s)) := by
  rw [exec, execDisable, if_pos (tableReady_of_served hs), channelArg_of_index hc]
  simp only [channelInUse_iff, beq_iff_eq, endService_eq_served, apply_ite Host.Outcome.next]

end

/-- Settles O20: each refusal is a branch of the served command. -/
theorem tableCommandsRefusedByState : Obligations.TableCommandsRefusedByState := by
  intro s n c
  refine ⟨fun hs hn h => ?_, fun hs hn h hoff => ?_, fun hs hn h => ?_, fun hs hn h => ?_, fun hs hn h hheld => ?_,
    fun hs hc h => ?_, fun hs hc h => ?_, fun hs hc h hoff => ?_⟩
  · rw [arm_served hs hn, if_pos h]
  · rw [arm_served hs hn, if_neg (not_not.mpr h), if_pos hoff]
  · rw [disarm_served hs hn, if_pos h]
  · rw [release_served hs hn, if_pos h]
  · rw [release_served hs hn, if_neg h, if_neg hheld]
  · rw [enable_served hs hc, if_pos h]
  · rw [disable_served hs hc, if_pos h]
  · rw [disable_served hs hc, if_neg h, if_pos hoff]

theorem othersKept_modEntry (n : Fin 32) (f : Entry → Entry) (s : State) : OthersKept n s (modEntry n f s) :=
  fun m hm => by rw [modEntry_entries, get_set_ne _ _ hm]

/-- Settles O24: the arm-time state is what ARM writes to the entry, and it writes nothing else. -/
theorem armGivesTheArmTimeState : Obligations.ArmGivesTheArmTimeState := by
  intro s n hs hn hdis hon
  refine ⟨modEntry n (Entry.armTime (effectiveLimit s.entries s.entries[n].cfg)) s, ?_, rfl, othersKept_modEntry _ _ _, ?_⟩
  · rw [arm_served hs hn, if_neg (not_not.mpr hdis), if_neg hon]
  · rw [ArmTime, modEntry_self]
    refine ⟨effectiveLimit_limitOf n s, ?_⟩
    simp only [Entry.armTime, Entry.cancelShape, Entry.cancelQual, claims_eq]

end Sys2Proof.TableCommands
end

section
/-! PROOFS. A withdrawal blocks no line (O25): of lines whose want follows from demand, silence and override, none wants
more when an entry leaves its contribution set; and what an edge does to an entry that has moved (O26). -/

namespace Sys2Proof.Edges

open Sys2Proof.Machine Sys2Proof.Safety Sys2Proof.Claims Sys2Proof.Images Sys2Proof.WatchTable Sys2Proof.Contributions
  Sys2Proof.Handling Sys2Proof.TableCommands

/-! ## Lines in step -/

/-- R91, R92: demand follows from the contribution set, and want from override, demand and silence. -/
structure InStep (ln : Line) : Prop where
  demand : ln.demand = anyContrib ln.contrib
  want : ln.want = ln.wants

/-- Every line is in step. -/
def LinesInStep (s : State) : Prop :=
  ∀ l : Fin 16, InStep s.lines[l]

theorem anyContrib_iff {v : Vector Bool 32} : anyContrib v = true ↔ ∃ n : Fin 32, v[n] = true := by
  simp only [anyContrib, List.any_eq_true, List.mem_finRange, true_and]

theorem linesInStep_of_outputLaw {s : State} (h : OutputLaw s) : LinesInStep s := by
  intro l
  obtain ⟨⟨hdemand, hwant, -⟩, -⟩ := h l
  exact ⟨Bool.eq_iff_iff.mpr (hdemand.trans anyContrib_iff.symm), hwant⟩

/-- A change of one line that keeps it in step. -/
theorem modLine_linesInStep {l : Fin 16} {f : Line → Line} {s : State} (h : LinesInStep s)
    (hf : InStep s.lines[l] → InStep (f s.lines[l])) : LinesInStep (modLine l f s) := by
  intro k
  by_cases hk : k = l
  · subst hk
    rw [modLine_self]
    exact hf (h k)
  · rw [modLine_other _ _ hk]
    exact h k

theorem takeOver_linesInStep (l : Fin 16) {s : State} (h : LinesInStep s) : LinesInStep (takeOver l s) := by
  refine modLine_linesInStep h fun ⟨hdemand, hwant⟩ => ?_
  split
  · exact ⟨hdemand, hwant⟩
  · exact ⟨hdemand, hwant⟩

/-- Bringing want up to date makes the line's want what it should be, and no other line's (R92, R96). -/
theorem updateWant_want (i : Bool) (l k : Fin 16) (s : State) :
    (updateWant i l s).lines[k].want = if k = l then s.lines[l].wants else s.lines[k].want := by
  rcases updateWant_cases i l s with ⟨hw, e⟩ | ⟨hw, -, e⟩ | ⟨hw, -, e⟩ <;> rw [e, hw]
  · split
    · next hk => rw [hk]
    · rfl
  · rw [raiseWant_lines, get_set]
    split
    · split <;> rfl
    · rfl
  · by_cases hk : k = l
    · rw [if_pos hk, hk, dropWant_self]
    · rw [if_neg hk]
      by_cases hp : k = partner l
      · rw [hp, dropWant_partner]
        split <;> rfl
      · rw [dropWant_other s hk hp]

/-- A line that is changed comes into step when its want is brought up to date, if its demand stands. -/
theorem updateWant_linesInStep (i : Bool) {l : Fin 16} {f : Line → Line} {s : State} (h : LinesInStep s)
    (hf : (f s.lines[l]).demand = anyContrib (f s.lines[l]).contrib) :
    LinesInStep (updateWant i l (modLine l f s)) := by
  intro k
  have hwant := updateWant_want i l k (modLine l f s)
  obtain ⟨want, hold, blocked, pin, e⟩ := updateWant_lines i l k (modLine l f s)
  rw [e] at hwant ⊢
  by_cases hk : k = l
  · subst hk
    rw [modLine_self] at hwant ⊢
    exact ⟨hf, hwant.trans (if_pos rfl)⟩
  · rw [modLine_other _ _ hk] at hwant ⊢
    exact ⟨(h k).demand, (hwant.trans (if_neg hk)).trans (h k).want⟩

theorem setContrib_linesInStep (l : Fin 16) (n : Fin 32) (b : Bool) {s : State} (h : LinesInStep s) :
    LinesInStep (setContrib l n b s) :=
  updateWant_linesInStep true h rfl

theorem storeLine_linesInStep (l : Fin 16) (p : LineProposal) {s : State} (h : LinesInStep s) :
    LinesInStep (storeLine l p s) := by
  have stored : LinesInStep (modLine l (fun ln => { ln with
      polarity := p.polarity, cutMember := p.cutMember, conflictEvent := p.conflictEvent,
      conflictSeverity := p.conflictSeverity }) s) :=
    modLine_linesInStep h fun ⟨hdemand, hwant⟩ => ⟨hdemand, hwant⟩
  unfold storeLine
  dsimp only
  split
  · exact takeOver_linesInStep _ (takeOver_linesInStep _ stored)
  · exact stored

/-- Whatever line command is taken, the lines are in step behind it (R93, R94, R101, R104 to R106). -/
theorem takeLineCommand_linesInStep {s : State} (h : LinesInStep s) : LinesInStep (takeLineCommand s) := by
  unfold takeLineCommand
  split
  · unfold serveReadLine
    split <;> exact h
  split
  · unfold serveWriteLine
    dsimp only
    split
    · exact h
    split
    · exact h
    · exact storeLine_linesInStep _ _ h
  split
  · unfold serveSilence
    split
    · exact h
    · next l _ =>
      split
      · exact h
      · exact updateWant_linesInStep _ h (h l).demand
  split
  · unfold serveOverride
    split
    · exact h
    · next l _ =>
      split
      · exact h
      · exact updateWant_linesInStep _ h (h l).demand
  split
  · unfold serveResume
    split
    · exact h
    · intro k
      simp only [complete_lines, refreshPins, get_mapVec]
      exact ⟨(h k).demand, (h k).want⟩
  · exact h

/-! ## An entry that leaves a contribution set -/

/-- A line in step wants nothing new when an entry leaves its contribution set: demand can only fall (R91, R92, R94). -/
theorem wanted_of_leaving {n : Fin 32} {ln : Line} (h : InStep ln) (hw : wantOf (contributing n false ln) = true) :
    ln.want = true := by
  have falls : anyContrib (ln.contrib.set n false) = true → anyContrib ln.contrib = true := by
    simp only [anyContrib_iff]
    rintro ⟨m, hm⟩
    rw [get_set] at hm
    split at hm
    · cases hm
    · exact ⟨m, hm⟩
  rw [h.want]
  rw [contributing_eq] at hw
  unfold Line.wants
  simp only [wantOf, Line.withContrib] at hw
  cases ho : ln.override <;> simp only [ho] at hw ⊢
  · have hd := h.demand
    cases hset : anyContrib (ln.contrib.set n false) <;> simp only [hset] at hw
    · cases hw
    · rw [falls hset] at hd
      simpa [hd] using hw
  · cases hw

/-- So it raises no CONFLICT (R95, R97). -/
theorem conflictsOf_of_leaving (i : Bool) {n : Fin 32} {l : Fin 16} {s t : State} (h : InStep s.lines[l])
    (hf : LineFollows l (contributing n false s.lines[l]) s t) : conflictsOf i (some l) s t = [] := by
  obtain ⟨-, hsame, hrise, hfall⟩ := hf
  refine if_neg fun ⟨hblocked, hfree, _⟩ => ?_
  cases hw : wantOf (contributing n false s.lines[l]) with
  | true =>
    rw [(hsame (hw.trans (wanted_of_leaving h hw).symm)).1] at hblocked
    exact absurd (hblocked.symm.trans hfree) (by decide)
  | false =>
    cases hv : s.lines[l].want with
    | false =>
      rw [(hsame (hw.trans hv.symm)).1] at hblocked
      exact absurd (hblocked.symm.trans hfree) (by decide)
    | true =>
      rw [(hfall hw hv).1] at hblocked
      cases hblocked

theorem setContrib_leave_waiting (l : Fin 16) (n : Fin 32) {s : State} (hrest : LinesRest s) (hstep : LinesInStep s) :
    (setContrib l n false s).waiting = s.waiting := by
  rw [setContrib_waiting n false hrest, conflictsOf_of_leaving true (hstep l) (setContrib_follows n false hrest),
    List.append_nil]

/-! ## DISARM -/

/-- A withdrawal, without and with an output (R90). -/
theorem withdraw_eq (n : Fin 32) (s : State) :
    withdraw n s = match s.entries[n].cfg.output with
      | some l => setContrib l n false (modEntry n (fun e => Entry.cancelShape { e with phase := false }) s)
      | none => modEntry n (fun e => Entry.cancelShape { e with phase := false }) s := rfl

theorem withdraw_entries (n : Fin 32) (s : State) :
    (withdraw n s).entries = s.entries.set n (Entry.cancelShape { s.entries[n] with phase := false }) := by
  rw [withdraw_eq]
  split
  · exact setContrib_entries _ _ _ _
  · rfl

/-- It hands no record over (R54, R90). -/
theorem withdraw_frame (n : Fin 32) {s : State} (hrest : LinesRest s) (hstep : LinesInStep s) :
    withdraw n s = { s with entries := (withdraw n s).entries, lines := (withdraw n s).lines } := by
  rw [withdraw_eq]
  split
  · next l _ =>
    have hwaiting := setContrib_leave_waiting l n
      (s := modEntry n (fun e => Entry.cancelShape { e with phase := false }) s) hrest hstep
    rw [setContrib_frame, hwaiting]
    rfl
  · rfl

theorem withdraw_follows (n : Fin 32) {s : State} (h : LinesRest s) : ContributionFollows n false s (withdraw n s) := by
  rw [withdraw_eq]
  refine ⟨fun ho => by rw [ho]; rfl, fun l hl => ?_⟩
  rw [hl]
  exact setContrib_follows (s := modEntry n (fun e => Entry.cancelShape { e with phase := false }) s) n false h

/-- Settles O25: a DISARM cancels the qualification timer and withdraws, and a withdrawal is silent. -/
theorem disarmIsSilent : Obligations.DisarmIsSilent := by
  intro s n hlaw hs hn harmed
  have hrest := linesRest_of_outputLaw hlaw
  have hstep := linesInStep_of_outputLaw hlaw
  refine ⟨withdraw n (modEntry n disarmed s), ?_, ?_, ?_, ?_, ?_⟩
  · rw [disarm_served hs hn, if_neg harmed]
  · exact withdraw_frame n (s := modEntry n disarmed s) hrest hstep
  · intro m hm
    rw [withdraw_entries, get_set_ne _ _ hm, othersKept_modEntry _ _ _ m hm]
  · rw [withdraw_entries, get_set_self, modEntry_self]
    simp only [disarmed, Entry.cancelShape, Entry.cancelQual, claims_eq]
  · have h := withdraw_follows n (s := modEntry n disarmed s) hrest
    simp only [ContributionFollows, modEntry_self] at h
    exact h

/-! ## The edge of an entry that has moved -/

section
variable {n : Fin 32} {g : Edge} {f : Entry → Entry} {s : State}

/-- The frame of an edge behind a change of its entry, from the state the output unit is reached in (R14, R84). -/
theorem edge_modEntry_frame (hcfg : (f s.entries[n]).cfg = s.entries[n].cfg) :
    HandlingFrame n (reached n (some g.dir) s) (edge n g (modEntry n f s)) := by
  have h := edge_frame n g (modEntry n f s)
  rw [reached_modEntry _ hcfg] at h
  exact frame_trans (frame_modEntry (by rw [reached_entries]; exact hcfg)) h

/-- Its effects, where the change touches nothing an edge goes by. -/
theorem edge_modEntry_effects (h : LinesRest s) (hf : SameAtEdge s.entries[n] (f s.entries[n]))
    (hcount : (f s.entries[n]).tripCount = s.entries[n].tripCount) :
    EdgeEffects n g.dir g.value g.fromTimer g.byRelease (reached n (some g.dir) s) (edge n g (modEntry n f s)) := by
  have heffects := edge_effects n g (s := modEntry n f s) h
  rw [reached_modEntry _ hf.cfg] at heffects
  have hentries := reached_entries n (some g.dir) s
  exact edgeEffects_modEntry (by rw [hentries]; exact hf) (by rw [hentries]; exact hcount) heffects

/-- The entry behind it: trip count, shaping timer and phase are left to the edge. -/
theorem edge_modEntry_entry : (edge n g (modEntry n f s)).entries[n] = { f s.entries[n] with
    tripCount := (edge n g (modEntry n f s)).entries[n].tripCount
    shape := (edge n g (modEntry n f s)).entries[n].shape
    shapeVoid := (edge n g (modEntry n f s)).entries[n].shapeVoid
    phase := (edge n g (modEntry n f s)).entries[n].phase } := by
  obtain ⟨count, shape, void, phase, h⟩ := edge_entry_fields n g (modEntry n f s)
  rw [h, modEntry_self]

/-- A clear edge counts no trip (R14). -/
theorem edge_clear_tripCount (h : g.dir = .clear) :
    (edge n g (modEntry n f s)).entries[n].tripCount = (f s.entries[n]).tripCount := by
  obtain ⟨shape, void, phase, he, -⟩ := edge_entry n g (modEntry n f s)
  rw [he, modEntry_self, h]
  rfl

end

/-! ## RELEASE -/

/-- Table 10-2: an opcode names one command. -/
theorem decodeOpcode_encodeOpcode (c : Command) : decodeOpcode (encodeOpcode c) = some c := by
  cases c <;> rfl

theorem encodeOpcode_injective : Function.Injective encodeOpcode := fun c d h =>
  Option.some.inj (by rw [← decodeOpcode_encodeOpcode c, h, decodeOpcode_encodeOpcode])

/-- While a table command waits no line command does. -/
theorem takeLineCommand_of_table {c : Command} {s : State} (hc : c.isTable = true) (h : Waits c s) :
    takeLineCommand s = s := by
  have unready (d : Command) (hd : d.isTable = false) : ready d s = false := by
    refine Bool.eq_false_iff.mpr fun hr => ?_
    have hdc : d = c := encodeOpcode_injective ((ready_iff.mp hr).2.symm.trans h.2)
    rw [hdc, hc] at hd
    cases hd
  rw [takeLineCommand, unready .readLine rfl, unready .writeLine rfl, unready .silence rfl, unready .override rfl,
    unready .resume rfl]
  rfl

theorem reached_of_table {c : Command} {s : State} (n : Fin 32) (d : Option Direction) (hc : c.isTable = true)
    (h : Waits c s) : reached n d s = s := by
  rw [reached, lineTaken_eq, takeLineCommand_of_table hc h, ite_self]

/-- The edge of a release (R55). -/
def releaseEdge (v : Option Half) : Edge :=
  { dir := .clear, value := v, fromTimer := false, byRelease := true }

theorem releaseEntry_eq (n : Fin 32) (s : State) :
    releaseEntry n s = edge n (releaseEdge s.entries[n].lastValue) (modEntry n (fun e => { e with state := .normal }) s) :=
  rfl

/-- A release changes state, shaping timer and phase of its entry (R55). -/
theorem releaseEntry_entry (n : Fin 32) (s : State) : (releaseEntry n s).entries[n] = { s.entries[n] with
    state := .normal, shape := (releaseEntry n s).entries[n].shape,
    shapeVoid := (releaseEntry n s).entries[n].shapeVoid, phase := (releaseEntry n s).entries[n].phase } := by
  rw [releaseEntry_eq]
  exact edge_modEntry_entry.trans (by rw [edge_clear_tripCount rfl])

theorem releaseEntry_frame (n : Fin 32) (s : State) : HandlingFrame n (reached n (some .clear) s) (releaseEntry n s) :=
  edge_modEntry_frame (g := releaseEdge s.entries[n].lastValue) (f := fun e => { e with state := .normal }) rfl

theorem releaseEntry_effects (n : Fin 32) {s : State} (h : LinesRest s) :
    EdgeEffects n .clear s.entries[n].lastValue false true (reached n (some .clear) s) (releaseEntry n s) :=
  edge_modEntry_effects (g := releaseEdge s.entries[n].lastValue) (f := fun e => { e with state := .normal }) h
    ⟨rfl, rfl, rfl, rfl⟩ rfl

/-- Settles O26: a release is a move to NORMAL with its edge, and no line command waits while RELEASE does. -/
theorem releaseMakesAClearEdge : Obligations.ReleaseMakesAClearEdge := by
  intro s n hlaw hs hn hheld
  have hreach : reached n (some .clear) s = s := reached_of_table n _ (c := .release) rfl hs.1
  have hframe := releaseEntry_frame n s
  have heffects := releaseEntry_effects n (linesRest_of_outputLaw hlaw)
  rw [hreach] at hframe heffects
  obtain ⟨hstate, hothers, -⟩ := hframe
  refine ⟨releaseEntry n s, ?_, hstate, hothers, releaseEntry_entry n s, heffects⟩
  rw [release_served hs hn, if_neg (by rw [hheld]; nofun), if_pos hheld]

end Sys2Proof.Edges
end

section
/-! PROOFS. The expiries the engine serves (O49, O50): a void claim is done with, a live one moves its entry on, behind the
line command that waits with the output unit. -/

namespace Sys2Proof.Expiries

open Sys2Proof.Machine Sys2Proof.Safety Sys2Proof.Claims Sys2Proof.WatchTable Sys2Proof.Contributions Sys2Proof.Handling
  Sys2Proof.Edges

/-! ## What a line command hands over -/

/-- Between `s` and `t` records have been handed over that may not be passed, CONFLICT records of a line command (R97). -/
def CommandHands (s t : State) : Prop :=
  ∃ ws : List Waiting, t.waiting = s.waiting ++ ws ∧ ∀ w ∈ ws, w.loose = false ∧ w.submitter = .outputUnit

theorem commandHands_of_same {s t : State} (h : t.waiting = s.waiting) : CommandHands s t :=
  ⟨[], by rw [h, List.append_nil], fun _ hw => absurd hw List.not_mem_nil⟩

/-- A line command's change of line `l`, carried through: a CONFLICT record where want rises into a blocking (R97). -/
theorem commandHands_updateWant {l : Fin 16} {f : Line → Line} {s t : State}
    (h : t.waiting = (updateWant false l (modLine l f s)).waiting) : CommandHands s t := by
  rcases updateWant_cases false l (modLine l f s) with ⟨-, e⟩ | ⟨-, -, e⟩ | ⟨-, -, e⟩ <;> rw [e] at h
  · exact commandHands_of_same h
  · rw [raiseWant_waiting] at h
    refine ⟨_, h, fun w hw => ?_⟩
    split at hw
    · rw [List.mem_singleton.mp hw]
      exact ⟨rfl, rfl⟩
    · cases hw
  · exact commandHands_of_same (h.trans (dropWant_waiting l _))

/-- Of the line commands only SILENCE and OVERRIDE can raise a CONFLICT (R93, R94, R97). -/
theorem takeLineCommand_hands (s : State) : CommandHands s (takeLineCommand s) := by
  have quiet {t : State} (h : t.waiting = s.waiting) : CommandHands s t := commandHands_of_same h
  unfold takeLineCommand
  split
  · unfold serveReadLine
    split <;> exact quiet rfl
  split
  · unfold serveWriteLine
    dsimp only
    split
    · exact quiet rfl
    split
    · exact quiet rfl
    · unfold storeLine
      dsimp only
      split <;> exact quiet rfl
  split
  · unfold serveSilence
    split
    · exact quiet rfl
    split
    · exact quiet rfl
    · exact commandHands_updateWant (complete_waiting _ _)
  split
  · unfold serveOverride
    split
    · exact quiet rfl
    split
    · exact quiet rfl
    · exact commandHands_updateWant (complete_waiting _ _)
  split
  · unfold serveResume
    split
    · exact quiet rfl
    · exact quiet (by rw [complete_waiting, refreshPins_waiting])
  · exact quiet rfl

theorem reached_hands (n : Fin 32) (d : Option Direction) (s : State) : CommandHands s (reached n d s) := by
  unfold reached
  split
  · rw [lineTaken_eq]
    exact takeLineCommand_hands s
  · exact commandHands_of_same rfl

theorem reached_workItem (n : Fin 32) (d : Option Direction) (s : State) : (reached n d s).workItem = s.workItem := by
  unfold reached
  split
  · rw [lineTaken_eq, takeLineCommand_work s]
  · rfl

/-! ## Where a work item has two parts -/

theorem conflictsOf_mem {i : Bool} {o : Option (Fin 16)} {s t : State} :
    ∀ w ∈ conflictsOf i o s t, w.loose = i ∧ w.submitter = .outputUnit := by
  intro w hw
  unfold conflictsOf at hw
  split at hw
  · cases hw
  · split at hw
    · rw [List.mem_singleton.mp hw]
      exact ⟨rfl, rfl⟩
    · cases hw

theorem recordsOf_mem {n : Fin 32} {c : EntryConfig} {dir : Direction} {v : Option Half} {fromTimer byRelease : Bool}
    {item : Nat} : ∀ w ∈ recordsOf n c dir v fromTimer byRelease item, w.submitter = .engine := by
  intro w hw
  unfold recordsOf at hw
  split at hw
  · rw [List.mem_singleton.mp hw]
  · cases hw

/-- R65, R97: behind what a line command hands over, an edge has handed over a CONFLICT and a record of its own exactly
when it has handed over both. -/
theorem recordsPart_iff {s u t : State} {conflicts records : List Waiting} (hu : CommandHands s u)
    (ht : t.waiting = u.waiting ++ conflicts ++ records)
    (hc : ∀ w ∈ conflicts, w.loose = true ∧ w.submitter = .outputUnit) (hr : ∀ w ∈ records, w.submitter = .engine) :
    recordsPart s t = true ↔ conflicts ≠ [] ∧ records ≠ [] := by
  obtain ⟨ws, hws, hcmd⟩ := hu
  have hnew : t.waiting.drop s.waiting.length = ws ++ conflicts ++ records := by
    rw [ht, hws, List.append_assoc, List.append_assoc, List.drop_left, List.append_assoc]
  have hout : (∃ w ∈ ws ++ conflicts ++ records, w.loose = true ∧ w.submitter = .outputUnit) ↔ conflicts ≠ [] := by
    constructor
    · rintro ⟨w, hw, hl, ho⟩ hnil
      rw [hnil, List.append_nil, List.mem_append] at hw
      rcases hw with hw | hw
      · exact absurd (hl.symm.trans (hcmd w hw).1) (by decide)
      · exact absurd (ho.symm.trans (hr w hw)) (by decide)
    · intro hne
      obtain ⟨w, hw⟩ := List.exists_mem_of_ne_nil _ hne
      exact ⟨w, List.mem_append_left _ (List.mem_append_right _ hw), hc w hw⟩
  have hengine : (∃ w ∈ ws ++ conflicts ++ records, w.submitter = .engine) ↔ records ≠ [] := by
    constructor
    · rintro ⟨w, hw, he⟩ hnil
      rw [hnil, List.append_nil, List.mem_append] at hw
      rcases hw with hw | hw
      · exact absurd (he.symm.trans (hcmd w hw).2) (by decide)
      · exact absurd (he.symm.trans (hc w hw).2) (by decide)
    · intro hne
      obtain ⟨w, hw⟩ := List.exists_mem_of_ne_nil _ hne
      exact ⟨w, List.mem_append_right _ hw, hr w hw⟩
  rw [recordsPart, hnew, Bool.and_eq_true, List.any_eq_true, List.any_eq_true]
  simp only [Bool.and_eq_true, beq_iff_eq]
  exact and_congr hout hengine

/-! ## The qualification expiry -/

/-- The edge of a qualification expiry (R43). -/
def expiryEdge (dir : Direction) (v : Option Half) : Edge :=
  { dir := dir, value := v, fromTimer := true, byRelease := false }

/-- An entry that leaves its pending state (R43). -/
def pastPending (dir : Direction) (e : Entry) : Entry :=
  { e with state := if dir = .trip then .tripped else .normal, qual := .unloaded }

/-- A live qualification expiry in a pending state is a move with an edge (R43). -/
theorem qualificationExpiry_eq {n : Fin 32} {dir : Direction} {s : State}
    (h : s.entries[n].state = .pendingTrip ∧ dir = .trip ∨ s.entries[n].state = .pendingClear ∧ dir = .clear) :
    qualificationExpiry n s =
      edge n (expiryEdge dir s.entries[n].lastValue) (modEntry n (pastPending dir) s) := by
  unfold qualificationExpiry
  dsimp only
  rcases h with ⟨hst, rfl⟩ | ⟨hst, rfl⟩ <;> rw [hst] <;> exact congrArg (edge n _) (modEntry_modEntry _ _ _ _)

theorem qualificationExpiryTaken_eq {n : Fin 32} {s : State} (h : s.engine = .taken (.expiry n .qualification)) :
    exec .qualificationExpiryTaken s = .next (handleQualification n s) := by
  rw [exec, execQualificationExpiryTaken, h]

theorem handleQualification_eq (n : Fin 32) (s : State) :
    handleQualification n s = if recordsPart s (serveQualification n s) = true then
      { serveQualification n s with engine := .ending } else comeFree (serveQualification n s) := rfl

/-- A void claim is done with (R42). -/
theorem serveQualification_void {n : Fin 32} {s : State} {k : Nat} (h : s.entries[n].qualVoid = k + 1) :
    serveQualification n s = { s with entries := s.entries.set n { s.entries[n] with qualVoid := k } } := by
  rw [serveQualification, if_pos (by rw [h]; nofun), modEntry, h]
  rfl

/-- Settles O49: a void claim hands nothing over; a live one is an edge, and its work item has two parts exactly when the
edge has handed over a CONFLICT and a record. -/
theorem qualificationExpiryMovesTheEntryOn : Obligations.QualificationExpiryMovesTheEntryOn := by
  refine ⟨fun s n he => ⟨fun k hk => ?_, fun u dir hlaw hvoid hqual hstate hu => ?_⟩, fun s he => ?_⟩
  · have quiet : recordsPart s { s with entries := s.entries.set n { s.entries[n] with qualVoid := k } } = false := by
      simp [recordsPart]
    rw [qualificationExpiryTaken_eq he, handleQualification_eq, serveQualification_void hk, quiet]
    rfl
  · have hserve : serveQualification n s =
        edge n (expiryEdge dir s.entries[n].lastValue) (modEntry n (pastPending dir) s) := by
      rw [serveQualification, if_neg (not_not.mpr hvoid), if_pos hqual, qualificationExpiry_eq hstate]
    have hframe := edge_modEntry_frame (g := expiryEdge dir s.entries[n].lastValue) (f := pastPending dir) (s := s)
      (n := n) rfl
    have heffects := edge_modEntry_effects (g := expiryEdge dir s.entries[n].lastValue) (f := pastPending dir) (n := n)
      (linesRest_of_outputLaw hlaw) ⟨rfl, rfl, rfl, rfl⟩ rfl
    have hentry := edge_modEntry_entry (n := n) (g := expiryEdge dir s.entries[n].lastValue) (f := pastPending dir) (s := s)
    rw [← hserve] at hframe heffects hentry
    have hentries : u.entries = s.entries := hu ▸ reached_entries n (some dir) s
    have hitem : u.workItem = s.workItem := hu ▸ reached_workItem n (some dir) s
    have hhands : CommandHands s u := hu ▸ reached_hands n (some dir) s
    obtain ⟨hstate, hothers, -⟩ := hframe
    replace hothers : OthersKept n u (serveQualification n s) := by rw [hu]; exact hothers
    replace heffects : EdgeEffects n dir s.entries[n].lastValue true false u (serveQualification n s) := by
      rw [hu]; exact heffects
    refine ⟨serveQualification n s, ?_, by rw [hu]; exact hstate, fun m hm => by rw [hothers m hm, hentries],
      hentry, heffects⟩
    obtain ⟨-, -, -, hwaiting⟩ := heffects
    rw [hentries, hitem] at hwaiting
    have hpart := recordsPart_iff hhands hwaiting conflictsOf_mem recordsOf_mem
    rw [qualificationExpiryTaken_eq he, handleQualification_eq, apply_ite Host.Outcome.next]
    exact if_congr hpart rfl rfl
  · rw [exec, execQualificationExpiryTaken, he]

/-! ## The shaping expiry -/

theorem shapingExpiryTaken_eq {n : Fin 32} {s : State} (h : s.engine = .taken (.expiry n .shaping)) :
    exec .shapingExpiryTaken s = .next (comeFree (serveShaping n s)) := by
  rw [exec, execShapingExpiryTaken, h]

theorem serveShaping_void {n : Fin 32} {s : State} {k : Nat} (h : s.entries[n].shapeVoid = k + 1) :
    serveShaping n s = { s with entries := s.entries.set n { s.entries[n] with shapeVoid := k } } := by
  rw [serveShaping, if_pos (by rw [h]; nofun), modEntry, h]
  rfl

section
variable {n : Fin 32} {l : Fin 16} {s : State} (hvoid : s.entries[n].shapeVoid = 0) (hshape : s.entries[n].shape = .expired)
  (hout : s.entries[n].cfg.output = some l)
include hvoid hshape hout

/-- A live shaping expiry of a PULSE entry (R87). -/
theorem serveShaping_pulse (h : s.entries[n].cfg.shaping = .pulse) :
    serveShaping n s =
      setContrib l n false (modEntry n (fun e => { e with shape := .unloaded }) (takeLineCommand s)) := by
  rw [serveShaping, if_neg (not_not.mpr hvoid), if_pos hshape, shapingExpiry]
  simp only [hout, h]

/-- A live shaping expiry of a BLINK entry (R89). -/
theorem serveShaping_blink (h : s.entries[n].cfg.shaping = .blink) :
    serveShaping n s = setContrib l n (!s.entries[n].phase)
      (modEntry n (fun e => { e with shape := .running e.cfg.shapeTicks, phase := !e.phase }) (takeLineCommand s)) := by
  rw [serveShaping, if_neg (not_not.mpr hvoid), if_pos hshape, shapingExpiry]
  simp only [hout, h]

end

/-- A contribution change behind a change of an entry: the entry's change, the lines, and the CONFLICT record. -/
theorem setContrib_modEntry {n : Fin 32} {l : Fin 16} (b : Bool) (f : Entry → Entry) {u : State} (h : LinesRest u) :
    (setContrib l n b (modEntry n f u) = { u with
        entries := u.entries.set n (f u.entries[n])
        lines := (setContrib l n b (modEntry n f u)).lines
        waiting := u.waiting ++ conflictsOf true (some l) u (setContrib l n b (modEntry n f u)) })
      ∧ LineFollows l (contributing n b u.lines[l]) u (setContrib l n b (modEntry n f u)) := by
  have hframe := setContrib_frame l n b (modEntry n f u)
  rw [LinesOnly, setContrib_waiting (s := modEntry n f u) n b h] at hframe
  exact ⟨hframe, setContrib_follows (s := modEntry n f u) n b h⟩

/-- Settles O50: a void claim is done with; a live one is a contribution change behind the line command that waits. -/
theorem shapingExpiryEndsAPulseOrTogglesABlink : Obligations.ShapingExpiryEndsAPulseOrTogglesABlink := by
  intro s u n l he hu
  rw [lineTaken_eq] at hu
  refine ⟨fun k hk => ?_, fun hlaw hvoid hshape hout => ?_⟩
  · rw [shapingExpiryTaken_eq he, serveShaping_void hk]
  · have hrest : LinesRest u := hu ▸ takeLineCommand_linesRest (linesRest_of_outputLaw hlaw)
    have hstep : LinesInStep u := hu ▸ takeLineCommand_linesInStep (linesInStep_of_outputLaw hlaw)
    have hentries : u.entries = s.entries := hu ▸ takeLineCommand_entries s
    refine ⟨fun hpulse => ?_, fun hblink => ?_⟩
    · obtain ⟨hframe, hfollows⟩ :=
        setContrib_modEntry (n := n) (l := l) false (fun e => { e with shape := .unloaded }) hrest
      rw [conflictsOf_of_leaving true (hstep l) hfollows, List.append_nil, hentries] at hframe
      refine ⟨_, ?_, hframe, hfollows⟩
      rw [shapingExpiryTaken_eq he, serveShaping_pulse hvoid hshape hout hpulse, hu]
    · obtain ⟨hframe, hfollows⟩ := setContrib_modEntry (n := n) (l := l) (!s.entries[n].phase)
        (fun e => { e with shape := .running e.cfg.shapeTicks, phase := !e.phase }) hrest
      rw [hentries] at hframe
      refine ⟨_, ?_, hframe, hfollows⟩
      rw [shapingExpiryTaken_eq he, serveShaping_blink hvoid hshape hout hblink, hu]

end Sys2Proof.Expiries
end

section
/-! PROOFS. How the engine chooses (O43): the claims in their order, and that nothing else is served. -/

namespace Sys2Proof.Choosing

open Sys2Proof.Machine Sys2Proof.Safety Sys2Proof.Claims Sys2Proof.Contributions Sys2Proof.Edges

/-! ## What waits -/

theorem qualClaim_iff {e : Entry} : e.qualClaim = true ↔ e.qual = .expired ∨ e.qualVoid ≠ 0 := by
  simp only [Entry.qualClaim, Bool.or_eq_true, beq_iff_eq, bne_iff_ne]

theorem shapeClaim_iff {e : Entry} : e.shapeClaim = true ↔ e.shape = .expired ∨ e.shapeVoid ≠ 0 := by
  simp only [Entry.shapeClaim, Bool.or_eq_true, beq_iff_eq, bne_iff_ne]

theorem noClaim_iff {n : Fin 32} {s : State} :
    NoClaim n s ↔ s.entries[n].qualClaim = false ∧ s.entries[n].shapeClaim = false := by
  simp only [NoClaim, ← Bool.not_eq_true, qualClaim_iff, shapeClaim_iff, not_or, not_not, and_assoc, ne_eq]

/-- Table 10-2: the opcode a command is decoded from is its own. -/
theorem encodeOpcode_of_decode {op : Byte} {c : Command} (h : decodeOpcode op = some c) : op = encodeOpcode c := by
  unfold decodeOpcode at h
  split at h <;> cases h <;> exact BitVec.eq_of_toNat_eq ‹op.toNat = _›

/-- A table command waits exactly when one is PENDING (R34, Table 10-2). -/
theorem tableWaiting_iff {s : State} : tableWaiting s = true ↔ ∃ d : Command, d.isTable = true ∧ Waits d s := by
  rw [tableWaiting, Bool.and_eq_true, beq_iff_eq]
  constructor
  · rintro ⟨hp, ht⟩
    cases hd : decodeOpcode s.cmd.op with
    | none =>
      rw [hd] at ht
      cases ht
    | some d =>
      rw [hd] at ht
      exact ⟨d, ht, hp, encodeOpcode_of_decode hd⟩
  · rintro ⟨d, ht, hp, hop⟩
    rw [hop, decodeOpcode_encodeOpcode]
    exact ⟨hp, ht⟩

/-- The rotation (R36): the lowest-numbered channel above the pointer whose slot holds an item, else the lowest-numbered
from 0. -/
theorem nextChannel_of_first {s : State} {c : Fin 16} (hslot : s.channels[c].slot.isSome = true)
    (h : (s.pointer < c ∧ ∀ d : Fin 16, s.pointer < d → d < c → s.channels[d].slot = none)
      ∨ (c ≤ s.pointer ∧ (∀ d : Fin 16, s.pointer < d → s.channels[d].slot = none)
        ∧ ∀ d : Fin 16, d < c → s.channels[d].slot = none)) : nextChannel s = some c := by
  unfold nextChannel
  rcases h with ⟨hp, hbelow⟩ | ⟨-, habove, hbelow⟩
  · have hfind : (List.finRange 16).find? (fun c => s.pointer < c && s.channels[c].slot.isSome) = some c := by
      rw [find_finRange_eq_some, Bool.and_eq_true, decide_eq_true_iff]
      refine ⟨⟨hp, hslot⟩, fun d hd => ?_⟩
      rw [Bool.and_eq_false_imp, decide_eq_true_iff]
      exact fun hpd => by rw [hbelow d hpd hd]; rfl
    rw [hfind]
  · have hnone : (List.finRange 16).find? (fun c => s.pointer < c && s.channels[c].slot.isSome) = none := by
      rw [List.find?_eq_none]
      intro d _
      rw [Bool.and_eq_true, decide_eq_true_iff]
      rintro ⟨hd, hs⟩
      rw [habove d hd] at hs
      cases hs
    rw [hnone]
    exact find_finRange_eq_some.mpr ⟨hslot, fun d hd => by rw [hbelow d hd]; rfl⟩

/-! ## The choice -/

theorem chooseWork_busy {s : State} (h : s.engine ≠ .free) : chooseWork s = s := by
  unfold chooseWork
  cases he : s.engine
  case free => exact absurd he h
  all_goals rfl

theorem chooseWork_claim {s : State} {c : Claim} (hf : s.engine = .free) (hc : nextClaim s = some c) :
    chooseWork s = takeClaim c s := by
  rw [chooseWork, hf]
  simp only [hc]

theorem chooseWork_item {s : State} {c : Fin 16} {item : Item} (hf : s.engine = .free) (hc : nextClaim s = none)
    (hn : nextChannel s = some c) (hs : s.channels[c].slot = some item) : chooseWork s = takeItem c item s := by
  rw [chooseWork, hf]
  simp only [hc, takeNextItem, hn, hs]

theorem chooseWork_nothing {s : State} (hc : nextClaim s = none) (hn : ∀ c : Fin 16, s.channels[c].slot = none) :
    chooseWork s = s := by
  unfold chooseWork
  rw [hc]
  cases s.engine <;> simp only [takeNextItem, nextChannel_eq_none.mpr hn]

theorem nextClaim_expiry {s : State} {n : Fin 32} {k : TimerKind} (h : nextExpiry s = some (n, k)) :
    nextClaim s = some (.expiry n k) := by
  rw [nextClaim, h]

theorem nextClaim_table {s : State} (h : ∀ n : Fin 32, NoClaim n s) :
    nextClaim s = if tableWaiting s = true then some .table else none := by
  rw [nextClaim, nextExpiry_eq_none.mpr fun n => noClaim_iff.mp (h n)]

/-- R120: what an event that reaches channel `c` finds is what the model takes first. -/
theorem channelTaken_eq (c : Fin 16) (s : State) : channelTaken c s = takeChannelCommand c s := by
  have hne : (channelArg s != some c) = true ↔ ¬ Index c s := by
    rw [bne_iff_ne, Ne, channelArg, indexOf_eq_some]
  rw [channelTaken, takeChannelCommand, waitingTaken_cons _ (t := serveReadChannel s) rfl,
    waitingTaken_cons _ (t := serveWriteChannel s) rfl]
  by_cases h : Index c s
  · rw [if_pos h, if_neg (mt hne.mp (not_not.mpr h))]
    rfl
  · rw [if_neg h, if_pos (hne.mpr h)]

/-! ## What is not served -/

theorem releaseAllStep_idle {s : State} (ht : s.engine ≠ .taken .table) (hr : inReleaseAll s = false) :
    releaseAllStep s = s := by
  unfold releaseAllStep
  unfold inReleaseAll at hr
  split
  · next he => exact absurd he ht
  · next he =>
    rw [he] at hr
    cases hr
  all_goals rfl

theorem releaseAllRest_idle (fuel : Nat) {s : State} (hr : inReleaseAll s = false) : releaseAllRest fuel s = s := by
  unfold inReleaseAll at hr
  cases fuel with
  | zero => rfl
  | succ fuel =>
    unfold releaseAllRest
    split
    · next he =>
      rw [he] at hr
      cases hr
    all_goals rfl

theorem evaluation_idle {s : State} (h : inEvaluation s = false) (x : Extent) : exec (.evaluation x) s = .next s := by
  unfold inEvaluation at h
  cases x with
  | advance =>
    rw [exec, execEvaluation, evaluationStep]
    cases he : s.engine <;> rw [he] at h
    case settling | handling => cases h
  | finish =>
    rw [exec, execEvaluation, evaluationFinish]
    cases he : s.engine <;> rw [he] at h
    case settling | handling => cases h

/-- Settles O43: the choice in the order of R35 and R36, and what is no event where the engine has not taken it. -/
theorem engineTakesClaimsInServiceOrder : Obligations.EngineTakesClaimsInServiceOrder := by
  refine ⟨fun s => rfl, fun s h => chooseWork_busy h, fun s n hf hbelow => ?_, fun s hf hno => ⟨fun hw => ?_, fun hw => ?_⟩,
    fun s h x => evaluation_idle h x, fun s ht c hc => ?_, fun s ht hr x => ?_, fun s hq he => ?_, fun s hs => ?_⟩
  · have below (m : Fin 32) (hm : m < n) : (s.entries[m].qualClaim || s.entries[m].shapeClaim) = false :=
      Bool.or_eq_false_iff.mpr (noClaim_iff.mp (hbelow m hm))
    refine ⟨fun hq => ?_, fun hq hv hs => ?_⟩
    · rw [← qualClaim_iff] at hq
      exact chooseWork_claim hf (nextClaim_expiry (nextExpiry_eq_some.mpr ⟨by rw [hq]; rfl, below, by rw [if_pos hq]⟩))
    · have hq' : s.entries[n].qualClaim ≠ true := fun h => (qualClaim_iff.mp h).elim hq fun h => h hv
      rw [← shapeClaim_iff] at hs
      exact chooseWork_claim hf
        (nextClaim_expiry (nextExpiry_eq_some.mpr ⟨by rw [hs, Bool.or_true], below, by rw [if_neg hq']⟩))
  · exact chooseWork_claim hf ((nextClaim_table hno).trans (if_pos (tableWaiting_iff.mpr hw)))
  · have hclaim : nextClaim s = none := (nextClaim_table hno).trans
      (if_neg fun h => (tableWaiting_iff.mp h).elim fun d hd => hw d hd.1 hd.2)
    refine ⟨fun u c item hslot hu hfirst => ?_, chooseWork_nothing hclaim⟩
    rw [chooseWork_item hf hclaim (nextChannel_of_first (by rw [hslot]; rfl) hfirst) hslot, hu, channelTaken_eq]
    rfl
  · have untaken (d : Command) : ¬ tableReady d s = true := fun h => ht (tableReady_iff.mp h).1
    simp only [List.mem_cons, List.not_mem_nil, or_false] at hc
    rcases hc with rfl | rfl | rfl | rfl | rfl | rfl | rfl <;> exact if_neg (untaken _)
  · cases x with
    | advance => rw [exec, execReleaseAll, releaseAllStep_idle ht hr]
    | finish => rw [exec, execReleaseAll, releaseAllStep_idle ht hr, releaseAllRest_idle _ hr]
  · rw [exec, execQualificationExpiryTaken]
    split
    · next n hn => exact absurd hn (hq n)
    · next hn => exact absurd hn he
    all_goals rfl
  · rw [exec, execShapingExpiryTaken]
    split
    · next n hn => exact absurd hn (hs n)
    all_goals rfl

end Sys2Proof.Choosing
end

section
/-! PROOFS. An evaluation taken to its end (O48). The engine's place is nothing the handling of an entry reads, so the events
of an evaluation, which move it on, are the handlings one after another. -/

namespace Sys2Proof.Evaluations

open Sys2Proof.Machine Sys2Proof.Safety Sys2Proof.Claims Sys2Proof.WatchTable Sys2Proof.Contributions Sys2Proof.Handling
  Sys2Proof.Edges Sys2Proof.Choosing

/-! ## The engine's place -/

/-- The state with the engine in another place. -/
def withEngine (e : Engine) (s : State) : State :=
  { s with engine := e }

section
variable (e : Engine) (s : State)

theorem withEngine_entries : (withEngine e s).entries = s.entries := rfl

theorem updateWant_withEngine (i : Bool) (l : Fin 16) :
    updateWant i l (withEngine e s) = withEngine e (updateWant i l s) := by
  have hraise : raiseWant i l (withEngine e s) = withEngine e (raiseWant i l s) := by
    simp only [raiseWant, handOverIf_eq, apply_ite (withEngine e)]
    rfl
  have hdrop : dropWant l (withEngine e s) = withEngine e (dropWant l s) := by
    rw [dropWant_eq, dropWant_eq, apply_ite (withEngine e)]
    rfl
  unfold updateWant
  rw [hraise, hdrop, apply_ite (withEngine e), apply_ite (withEngine e)]
  rfl

theorem modLine_withEngine (l : Fin 16) (f : Line → Line) : modLine l f (withEngine e s) = withEngine e (modLine l f s) :=
  rfl

theorem storeLine_withEngine (l : Fin 16) (p : LineProposal) :
    storeLine l p (withEngine e s) = withEngine e (storeLine l p s) := by
  unfold storeLine
  dsimp only
  rw [apply_ite (withEngine e)]
  rfl

/-- A line command does not go by the engine's place. -/
theorem takeLineCommand_withEngine : takeLineCommand (withEngine e s) = withEngine e (takeLineCommand s) := by
  have hready (c : Command) : ready c (withEngine e s) = ready c s := rfl
  have harg : lineArg (withEngine e s) = lineArg s := rfl
  have hrefusal (l : Fin 16) (p : LineProposal) : lineRefusal l p (withEngine e s) = lineRefusal l p s := rfl
  have hcmd : (withEngine e s).cmd = s.cmd := rfl
  have hread : serveReadLine (withEngine e s) = withEngine e (serveReadLine s) := by
    rw [serveReadLine, serveReadLine, harg]
    cases lineArg s <;> rfl
  have hwrite : serveWriteLine (withEngine e s) = withEngine e (serveWriteLine s) := by
    simp only [serveWriteLine, harg, hrefusal, hcmd, storeLine_withEngine]
    cases lineArg s with
    | none => rfl
    | some l => cases h : lineRefusal l (parseLine s.cmd.seen[0]) s <;> simp only [h] <;> rfl
  have hsilence : serveSilence (withEngine e s) = withEngine e (serveSilence s) := by
    simp only [serveSilence, harg, modLine_withEngine, updateWant_withEngine]
    cases lineArg s with
    | none => rfl
    | some l =>
      rw [apply_ite (withEngine e)]
      rfl
  have hoverride : serveOverride (withEngine e s) = withEngine e (serveOverride s) := by
    simp only [serveOverride, harg, hcmd, modLine_withEngine, updateWant_withEngine]
    cases lineArg s with
    | none => rfl
    | some l => cases Override.ofCode s.cmd.captured1.toNat <;> rfl
  have hresume : serveResume (withEngine e s) = withEngine e (serveResume s) := by
    rw [serveResume, serveResume, apply_ite (withEngine e)]
    rfl
  simp only [takeLineCommand, hready, hread, hwrite, hsilence, hoverride, hresume, apply_ite (withEngine e)]

theorem modEntry_withEngine (n : Fin 32) (f : Entry → Entry) :
    modEntry n f (withEngine e s) = withEngine e (modEntry n f s) := rfl

theorem reached_withEngine (n : Fin 32) (d : Option Direction) :
    reached n d (withEngine e s) = withEngine e (reached n d s) := by
  simp only [reached, lineTaken_eq, takeLineCommand_withEngine, apply_ite (withEngine e)]
  rfl

theorem contribute_withEngine (n : Fin 32) (dir : Direction) :
    contribute n dir (withEngine e s) = withEngine e (contribute n dir s) := by
  have hset (l : Fin 16) (b : Option Bool) (u : State) :
      setContribIf l n b (withEngine e u) = withEngine e (setContribIf l n b u) := by
    cases b with
    | none => rfl
    | some b => exact updateWant_withEngine e (modLine l (Line.withContrib n b) u) true l
  simp only [contribute, withEngine_entries, modEntry_withEngine, hset]
  cases s.entries[n].cfg.output <;> rfl

theorem edge_withEngine (n : Fin 32) (g : Edge) : edge n g (withEngine e s) = withEngine e (edge n g s) := by
  rw [edge_eq, edge_eq, reached_withEngine, modEntry_withEngine, contribute_withEngine]
  simp only [captureHandOver_frame, recordStep_frame]
  rfl

theorem moveWithEdge_withEngine (n : Fin 32) (st : EntryState) (g : Edge) :
    moveWithEdge n st g (withEngine e s) = withEngine e (moveWithEdge n st g s) := by
  rw [moveWithEdge, modEntry_withEngine, edge_withEngine, moveWithEdge]

theorem transition_withEngine (n : Fin 32) (active : Bool) (v : Option Half) :
    transition n active v (withEngine e s) = withEngine e (transition n active v s) := by
  rw [transition_eq, transition_eq, withEngine_entries]
  cases (moved s.entries[n] active).2.1 with
  | none => rfl
  | some dir => exact moveWithEdge_withEngine e s n _ _

/-- The handling of an entry does not go by the engine's place (R18, R28 to R33). -/
theorem handleEntry_withEngine (n : Fin 32) (input : EvalInput) :
    handleEntry n input (withEngine e s) = withEngine e (handleEntry n input s) := by
  cases input with
  | good v => simp only [handleEntry, handleGood, withEngine_entries, modEntry_withEngine, transition_withEngine]
  | fault =>
    simp only [handleEntry, handleFault, withEngine_entries, modEntry_withEngine, transition_withEngine]
    split
    · rfl
    · cases s.entries[n].cfg.faultPolicy <;> rfl

end

/-- A work item that ends forgets where the engine was. -/
theorem comeFree_withEngine (e : Engine) (s : State) : comeFree (withEngine e s) = comeFree s := rfl

/-- What the engine is in once it has come free and chosen (R34). -/
theorem comeFree_engine (s : State) :
    (comeFree s).engine = .free ∨ (∃ c : Claim, (comeFree s).engine = .taken c)
      ∨ ∃ (c : Fin 16) (item : Item), (comeFree s).engine = .settling c item := by
  unfold comeFree
  generalize hu : { s with engine := .free, workItem := s.workItem + 1 } = u
  have hfree : u.engine = .free := by rw [← hu]
  rcases chooseWork_cases u with ⟨h, -⟩ | ⟨-, -, -, h⟩ | ⟨c, -, -, h⟩ | ⟨c, item, -, -, -, -, h⟩
  · exact absurd hfree h
  · exact .inl (by rw [h, hfree])
  · exact .inr (.inl ⟨c, by rw [h, takeClaim_engine]⟩)
  · exact .inr (.inr ⟨c, item, by rw [h, takeItem]⟩)

/-! ## The entries from an index on -/

/-- What is found first comes first among what is kept. -/
theorem filter_finRange_of_find {k : Nat} {p : Fin k → Bool} {n : Fin k} (h : (List.finRange k).find? p = some n) :
    (List.finRange k).filter p = n :: (List.finRange k).filter fun m => n < m && p m := by
  obtain ⟨hn, as, bs, hab, has⟩ := List.find?_eq_some_iff_append.mp h
  have hsorted : (as ++ n :: bs).Pairwise (· < ·) := hab ▸ List.pairwise_lt_finRange k
  obtain ⟨-, hnbs, hlt⟩ := List.pairwise_append.mp hsorted
  have hbefore : as.filter p = [] := List.filter_eq_nil_iff.mpr fun m hm => by simpa using has m hm
  have hbefore' : as.filter (fun m => n < m && p m) = [] := List.filter_eq_nil_iff.mpr fun m hm => by
    have := hlt m hm n List.mem_cons_self
    simp [this.le]
  have hafter : bs.filter (fun m => n < m && p m) = bs.filter p :=
    List.filter_congr fun m hm => by simp [(List.pairwise_cons.mp hnbs).1 m hm]
  rw [hab, List.filter_append, List.filter_append, hbefore, hbefore', List.filter_cons, if_pos hn, List.filter_cons,
    if_neg (by simp), hafter]
  rfl

/-- The entries of which `p` holds from index `k` on, one after the first of them. -/
theorem filter_from_of_find {p : Fin 32 → Bool} {k : Nat} {n : Fin 32}
    (h : (List.finRange 32).find? (fun m => k ≤ m.val && p m) = some n) :
    (List.finRange 32).filter (fun m => k ≤ m.val && p m) =
      n :: (List.finRange 32).filter fun m => n.val + 1 ≤ m.val && p m := by
  have hk : k ≤ n.val := by
    have := List.find?_some h
    rw [Bool.and_eq_true, decide_eq_true_iff] at this
    exact this.1
  rw [filter_finRange_of_find h]
  refine congrArg (List.cons n) (List.filter_congr fun m _ => ?_)
  rw [← Bool.and_assoc]
  refine congrArg (· && p m) (Bool.eq_iff_iff.mpr ?_)
  rw [Bool.and_eq_true, decide_eq_true_iff, decide_eq_true_iff, decide_eq_true_iff, Fin.lt_def]
  omega

theorem filter_from_of_find_none {p : Fin 32 → Bool} {k : Nat}
    (h : (List.finRange 32).find? (fun m => k ≤ m.val && p m) = none) :
    (List.finRange 32).filter (fun m => k ≤ m.val && p m) = [] :=
  List.filter_eq_nil_iff.mpr (List.find?_eq_none.mp h)

/-- What is kept from index `k` on goes by `p` there only. -/
theorem filter_from_congr {p q : Fin 32 → Bool} {k : Nat} (h : ∀ m : Fin 32, k ≤ m.val → p m = q m) :
    (List.finRange 32).filter (fun m => k ≤ m.val && p m) = (List.finRange 32).filter fun m => k ≤ m.val && q m := by
  refine List.filter_congr fun m _ => ?_
  by_cases hm : k ≤ m.val
  · rw [h m hm]
  · rw [decide_eq_false hm, Bool.false_and, Bool.false_and]

/-! ## The evaluation -/

/-- The entries an evaluation of channel `c` has still to handle, from index `k` on (R37). -/
def boundFrom (c : Fin 16) (k : Nat) (s : State) : List (Fin 32) :=
  (List.finRange 32).filter fun n => k ≤ n.val && isBound c n s

/-- Entries handled one after another (R18). -/
def handleEach (input : EvalInput) (ns : List (Fin 32)) (s : State) : State :=
  ns.foldl (fun u n => handleEntry n input u) s

theorem handleEach_withEngine (e : Engine) (input : EvalInput) (ns : List (Fin 32)) (s : State) :
    handleEach input ns (withEngine e s) = withEngine e (handleEach input ns s) := by
  induction ns generalizing s with
  | nil => rfl
  | cons n ns ih =>
    rw [handleEach, List.foldl_cons, handleEntry_withEngine]
    exact ih _

/-- The handling of an entry leaves those behind it bound or not, as they were. -/
theorem boundFrom_handleEntry (c : Fin 16) (n : Fin 32) (input : EvalInput) (s : State) :
    boundFrom c (n.val + 1) (handleEntry n input s) = boundFrom c (n.val + 1) s := by
  refine filter_from_congr fun m hm => ?_
  rw [isBound, isBound, (handleEntry_work n input s).2.1 m (Fin.ne_of_gt hm)]

/-- What is left of an evaluation after its settling is the handling of the bound entries that are left, and the end. -/
theorem evaluationRest_eq {fuel : Nat} {s : State} {c : Fin 16} {input : EvalInput} {k : Nat} (hpos : 0 < fuel)
    (hfuel : 33 ≤ fuel + k) (he : s.engine = .handling c input k) :
    evaluationRest fuel s = comeFree (handleEach input (boundFrom c k s) s) := by
  induction fuel generalizing s k with
  | zero => exact absurd hpos (lt_irrefl 0)
  | succ fuel ih =>
    rw [evaluationRest, he]
    dsimp only
    rw [evaluationStep, he]
    dsimp only
    cases hn : nextBound c k s with
    | none =>
      rw [boundFrom, filter_from_of_find_none hn, handleEach, List.foldl_nil]
      dsimp only
      cases fuel with
      | zero => rfl
      | succ fuel =>
        rw [evaluationRest]
        rcases comeFree_engine s with h | ⟨_, h⟩ | ⟨_, _, h⟩ <;> rw [h]
    | some n =>
      have hk : k ≤ n.val := by
        have := List.find?_some hn
        rw [Bool.and_eq_true, decide_eq_true_iff] at this
        exact this.1
      have hrest := ih (s := withEngine (.handling c input (n.val + 1)) (handleEntry n input s)) (k := n.val + 1)
        (by omega) (by omega) rfl
      have hbound : boundFrom c (n.val + 1) (withEngine (.handling c input (n.val + 1)) (handleEntry n input s)) =
          boundFrom c (n.val + 1) s := boundFrom_handleEntry c n input s
      rw [hbound, handleEach_withEngine, comeFree_withEngine] at hrest
      rw [boundFrom, filter_from_of_find hn]
      exact hrest

theorem isBound_iff {c : Fin 16} {n : Fin 32} {s : State} : isBound c n s = true ↔ Bound c n s := by
  rw [isBound, Bool.and_eq_true, bne_iff_ne, beq_iff_eq]

/-- Settles O48: the events of an evaluation, put together. -/
theorem evaluationHandlesEachBoundEntryInOrder : Obligations.EvaluationHandlesEachBoundEntryInOrder := by
  refine ⟨fun s c input k he => ⟨?_, fun hno => ?_⟩, fun s c item he => ⟨settleTaken c item s, _, ?_, rfl, ?_⟩⟩
  · rw [exec, execEvaluation, evaluationFinish, he]
    exact congrArg Host.Outcome.next (evaluationRest_eq (by omega) (by omega) he)
  · have hnone : nextBound c k s = none := by
      refine List.find?_eq_none.mpr fun n _ => ?_
      rw [Bool.and_eq_true, decide_eq_true_iff, isBound_iff]
      exact fun h => hno n h.1 h.2
    rw [exec, execEvaluation, evaluationStep, he]
    simp only [hnone]
  · rw [exec, execEvaluation, evaluationStep, he]
  · rw [exec, exec, execEvaluation, execEvaluation, evaluationFinish, he]
    rfl

end Sys2Proof.Evaluations
end

section
/-! PROOFS. RELEASE_ALL (O27): its events one after another are the releases of the HELD entries in index order, and none of
them finds a line command or blocks a line. -/

namespace Sys2Proof.ReleaseAll

open Sys2Proof.Machine Sys2Proof.Safety Sys2Proof.Claims Sys2Proof.WatchTable Sys2Proof.Contributions Sys2Proof.Handling
  Sys2Proof.Edges Sys2Proof.Choosing Sys2Proof.Evaluations

/-! ## The events -/

/-- The HELD entries from index `k` on (R56). -/
def heldFrom (k : Nat) (s : State) : List (Fin 32) :=
  (List.finRange 32).filter fun n => k ≤ n.val && s.entries[n].state == .held

/-- Entries released one after another (R55). -/
def releaseEach (ns : List (Fin 32)) (s : State) : State :=
  ns.foldl (fun u n => releaseEntry n u) s

/-- The count of the entries released in CMD_ARG0 (R56). -/
def withCount (count : Nat) (s : State) : State :=
  { s with cmd := { s.cmd with arg0 := BitVec.ofNat 8 count } }

/-- A RELEASE_ALL that is to visit the entries from `k` on and has released `count`, taken to its end. -/
def releasedAll (k count : Nat) (s : State) : State :=
  endService .ok (withCount (count + (heldFrom k s).length) (releaseEach (heldFrom k s) s))

theorem releaseAllFrom_some {k count : Nat} {n : Fin 32} {s : State} (h : nextHeld k s = some n) :
    releaseAllFrom k count s = withEngine (.releasing (n.val + 1) (count + 1)) (releaseEntry n s) := by
  rw [releaseAllFrom, h]
  rfl

theorem releaseAllFrom_none {k count : Nat} {s : State} (h : nextHeld k s = none) :
    releaseAllFrom k count s = endService .ok (withCount count s) := by
  rw [releaseAllFrom, h]
  rfl

theorem releaseAllStep_of_releasing {k count : Nat} {s : State} (h : Releasing k count s) :
    releaseAllStep s = releaseAllFrom k count s := by
  rcases h with he | ⟨⟨hw, he⟩, rfl, rfl⟩ <;> rw [releaseAllStep, he]
  exact if_pos (ready_iff.mpr hw)

/-- A RELEASE_ALL that has completed is in progress no more. -/
theorem endService_inReleaseAll (r : Result) (s : State) : inReleaseAll (endService r s) = false := by
  unfold inReleaseAll endService
  rcases comeFree_engine (complete r s) with h | ⟨_, h⟩ | ⟨_, _, h⟩ <;> rw [h]

theorem releaseEntry_withEngine (e : Engine) (n : Fin 32) (s : State) :
    releaseEntry n (withEngine e s) = withEngine e (releaseEntry n s) :=
  moveWithEdge_withEngine e s n _ _

theorem releaseEach_cons (n : Fin 32) (ns : List (Fin 32)) (s : State) :
    releaseEach (n :: ns) s = releaseEach ns (releaseEntry n s) := rfl

/-- A RELEASE_ALL that completes forgets where the engine was. -/
theorem endService_withEngine (r : Result) (count : Nat) (e : Engine) (s : State) :
    endService r (withCount count (withEngine e s)) = endService r (withCount count s) := rfl

theorem releaseEach_withEngine (e : Engine) (ns : List (Fin 32)) (s : State) :
    releaseEach ns (withEngine e s) = withEngine e (releaseEach ns s) := by
  induction ns generalizing s with
  | nil => rfl
  | cons n ns ih =>
    rw [releaseEach, List.foldl_cons, releaseEntry_withEngine]
    exact ih _

/-- One release more or less is the same RELEASE_ALL at its end (R56). -/
theorem releasedAll_step {k : Nat} (count : Nat) {n : Fin 32} {s : State} (h : nextHeld k s = some n) (e : Engine) :
    releasedAll (n.val + 1) (count + 1) (withEngine e (releaseEntry n s)) = releasedAll k count s := by
  have hheld : heldFrom (n.val + 1) (withEngine e (releaseEntry n s)) = heldFrom (n.val + 1) s := by
    refine filter_from_congr fun m hm => ?_
    rw [withEngine_entries, (releaseEntry_work n s).2.1 m (Fin.ne_of_gt hm)]
  have hcons : heldFrom k s = n :: heldFrom (n.val + 1) s := filter_from_of_find h
  rw [releasedAll, releasedAll, hheld, hcons, releaseEach_withEngine, endService_withEngine, releaseEach_cons,
    List.length_cons, Nat.add_assoc, Nat.add_comm 1]

theorem nextHeld_some {k : Nat} {n : Fin 32} {s : State} (h : nextHeld k s = some n) :
    k ≤ n.val ∧ s.entries[n].state = .held := by
  have := List.find?_some h
  rwa [Bool.and_eq_true, decide_eq_true_iff, beq_iff_eq] at this

/-- A RELEASE_ALL taken to its end is its events one after another. -/
theorem releaseAllRest_eq {fuel k : Nat} (count : Nat) {s : State} (hfuel : 32 ≤ fuel + k) :
    releaseAllRest fuel (releaseAllFrom k count s) = releasedAll k count s := by
  induction fuel generalizing s k count with
  | zero =>
    cases hn : nextHeld k s with
    | some n => exact absurd (nextHeld_some hn).1 (by omega)
    | none =>
      rw [releasedAll, heldFrom, filter_from_of_find_none hn, releaseAllFrom_none hn]
      rfl
  | succ fuel ih =>
    cases hn : nextHeld k s with
    | none =>
      rw [releasedAll, heldFrom, filter_from_of_find_none hn, releaseAllFrom_none hn,
        releaseAllRest_idle _ (endService_inReleaseAll _ _)]
      rfl
    | some n =>
      have hk := (nextHeld_some hn).1
      rw [releaseAllFrom_some hn, ← releasedAll_step count hn (.releasing (n.val + 1) (count + 1)), ← ih _ (by omega)]
      rfl

/-! ## One release -/

/-- What RELEASE_ALL keeps from release to release: lines that are not wanted rest, lines are in step, and the command is
with the engine, so that no line command waits. -/
structure AllReleasing (s : State) : Prop where
  rest : LinesRest s
  step : LinesInStep s
  waits : Waits .releaseAll s

/-- The releases of `ns` between `s` and `t`, as R56 has them: the entries, what each hands over, and the frame. -/
structure Released (ns : List (Fin 32)) (s t : State) : Prop where
  frame : t = { s with entries := t.entries, lines := t.lines, captures := t.captures, waiting := t.waiting }
  others : ∀ m : Fin 32, m ∉ ns → t.entries[m] = s.entries[m]
  entry : ∀ m : Fin 32, m ∈ ns → t.entries[m] = { s.entries[m] with
    state := .normal, shape := t.entries[m].shape, shapeVoid := t.entries[m].shapeVoid, phase := t.entries[m].phase }
  captures : t.captures = s.captures ++ ns.flatMap fun n =>
    capturesOf s.entries[n].cfg .clear s.entries[n].lastValue s.entries[n].effLimit
  waiting : t.waiting = s.waiting ++ ns.flatMap fun n =>
    recordsOf n s.entries[n].cfg .clear s.entries[n].lastValue false true s.workItem

/-- A clear edge takes an entry out of its contribution set, or leaves the sets alone (R85, R86, R88). -/
theorem contribute_clear_lines (n : Fin 32) (s : State) :
    (contribute n .clear s).lines = s.lines
      ∨ ∃ l : Fin 16, (contribute n .clear s).lines = (setContrib l n false (modEntry n (shaped .clear) s)).lines := by
  unfold contribute
  cases s.entries[n].cfg.output with
  | none => exact .inl rfl
  | some l =>
    cases s.entries[n].cfg.shaping with
    | level | blink => exact .inr ⟨l, rfl⟩
    | pulse => exact .inl rfl

theorem contribute_clear_rest (n : Fin 32) {s : State} (h : LinesRest s) : LinesRest (contribute n .clear s) := by
  intro k
  rcases contribute_clear_lines n s with e | ⟨l, e⟩ <;> rw [e]
  · exact h k
  · exact updateWant_linesRest true l (modLine_linesRest (s := modEntry n (shaped .clear) s) h id) k

theorem contribute_clear_step (n : Fin 32) {s : State} (h : LinesInStep s) : LinesInStep (contribute n .clear s) := by
  intro k
  rcases contribute_clear_lines n s with e | ⟨l, e⟩ <;> rw [e]
  · exact h k
  · exact setContrib_linesInStep l n false (s := modEntry n (shaped .clear) s) h k

/-- A clear edge raises no CONFLICT (R95, R97). -/
theorem conflictsOf_clear {n : Fin 32} {s t : State} (hstep : LinesInStep s) (h : ContributionStep n .clear s t) :
    conflictsOf true s.entries[n].cfg.output s t = [] := by
  obtain ⟨-, hout⟩ := h
  cases ho : s.entries[n].cfg.output with
  | none => rfl
  | some l =>
    have hset := hout (by rw [ho]; nofun)
    cases hs : s.entries[n].cfg.shaping <;> rw [hs] at hset
    case level | blink => exact conflictsOf_of_leaving true (hstep l) (hset.1.2 l ho)
    case pulse => exact conflictsOf_same true _ hset.1

/-- A release within RELEASE_ALL (R55, R56). -/
theorem releaseEntry_released (n : Fin 32) {s : State} (h : AllReleasing s) : Released [n] s (releaseEntry n s) := by
  have hreach : reached n (some .clear) s = s := reached_of_table n _ (c := .releaseAll) rfl h.waits
  have hframe := releaseEntry_frame n s
  have heffects := releaseEntry_effects n h.rest
  rw [hreach] at hframe heffects
  obtain ⟨hstate, hothers, -⟩ := hframe
  obtain ⟨-, hcontribution, hcaptures, hwaiting⟩ := heffects
  rw [conflictsOf_clear h.step hcontribution, List.append_nil] at hwaiting
  have hlimit : (releaseEntry n s).entries[n].effLimit = s.entries[n].effLimit := by rw [releaseEntry_entry]
  rw [hlimit] at hcaptures
  refine ⟨hstate, fun m hm => hothers m (by simpa using hm), fun m hm => ?_, ?_, ?_⟩
  · rw [List.mem_singleton.mp hm]
    exact releaseEntry_entry n s
  · rw [hcaptures, List.flatMap_singleton]
  · rw [hwaiting, List.flatMap_singleton]

theorem releaseEntry_allReleasing (n : Fin 32) {s : State} (h : AllReleasing s) : AllReleasing (releaseEntry n s) := by
  have hlines : (releaseEntry n s).lines =
      (contribute n .clear (modEntry n (Entry.counted .clear) (modEntry n (fun e => { e with state := .normal }) s))).lines := by
    have hreach := reached_of_table n (some .clear) (c := .releaseAll) (s := modEntry n (fun e => { e with state := .normal }) s)
      rfl h.waits
    rw [releaseEntry_eq, edge_eq, recordStep_frame, captureHandOver_frame, releaseEdge, hreach]
  refine ⟨fun k => ?_, fun k => ?_, ?_⟩
  · rw [hlines]
    exact contribute_clear_rest n (s := modEntry n _ (modEntry n _ s)) h.rest k
  · rw [hlines]
    exact contribute_clear_step n (s := modEntry n _ (modEntry n _ s)) h.step k
  · rw [Waits, (releaseEntry_released n h).frame]
    exact h.waits

/-! ## All of them -/

theorem Released.cons {n : Fin 32} {ns : List (Fin 32)} {s u t : State} (h : Released [n] s u) (k : Released ns u t)
    (hn : n ∉ ns) : Released (n :: ns) s t := by
  have kept (m : Fin 32) (hm : m ∈ ns) : u.entries[m] = s.entries[m] :=
    h.others m fun hmem => hn (List.mem_singleton.mp hmem ▸ hm)
  have hitem : u.workItem = s.workItem := by rw [h.frame]
  refine ⟨k.frame.trans (by rw [h.frame]), fun m hm => ?_, fun m hm => ?_, ?_, ?_⟩
  · obtain ⟨hne, hmem⟩ := not_or.mp (mt List.mem_cons.mpr hm)
    rw [k.others m hmem, h.others m (mt List.mem_singleton.mp hne)]
  · rcases List.mem_cons.mp hm with rfl | hmem
    · rw [k.others m hn]
      exact h.entry m List.mem_cons_self
    · rw [← kept m hmem]
      exact k.entry m hmem
  · rw [k.captures, h.captures, List.append_assoc, List.flatMap_singleton, List.flatMap_cons]
    exact congrArg _ (congrArg _ (List.flatMap_congr fun m hm => by rw [kept m hm]))
  · rw [k.waiting, h.waiting, List.append_assoc, List.flatMap_singleton, List.flatMap_cons, hitem]
    exact congrArg _ (congrArg _ (List.flatMap_congr fun m hm => by rw [kept m hm]))

theorem releaseEach_released {ns : List (Fin 32)} (hns : ns.Nodup) {s : State} (h : AllReleasing s) :
    Released ns s (releaseEach ns s) := by
  induction ns generalizing s with
  | nil => exact ⟨rfl, fun _ _ => rfl, fun _ hm => absurd hm List.not_mem_nil, (List.append_nil _).symm, (List.append_nil _).symm⟩
  | cons n ns ih =>
    obtain ⟨hn, hrest⟩ := List.nodup_cons.mp hns
    exact (releaseEntry_released n h).cons (ih hrest (releaseEntry_allReleasing n h)) hn

theorem flatMap_filter_eq {α β : Type} (p : α → Prop) [DecidablePred p] (f : α → List β) (xs : List α) :
    (xs.filter fun x => p x).flatMap f = xs.flatMap fun x => if p x then f x else [] := by
  induction xs with
  | nil => rfl
  | cons x xs ih =>
    rw [List.filter_cons, List.flatMap_cons, ← ih]
    by_cases hx : p x <;> simp [hx]

/-! ## The obligation -/

theorem releaseAll_advance {k count : Nat} {s : State} (h : Releasing k count s) :
    exec (.releaseAll .advance) s = .next (releaseAllFrom k count s) := by
  rw [exec, execReleaseAll, releaseAllStep_of_releasing h]

theorem releaseAll_finish {k count : Nat} {s : State} (h : Releasing k count s) :
    exec (.releaseAll .finish) s = .next (releasedAll k count s) := by
  rw [exec, execReleaseAll, releaseAllStep_of_releasing h, releaseAllRest_eq count (by omega)]

theorem mem_heldFrom_zero {n : Fin 32} {s : State} : n ∈ heldFrom 0 s ↔ s.entries[n].state = .held := by
  simp [heldFrom]

theorem heldFrom_zero (s : State) :
    heldFrom 0 s = (List.finRange 32).filter fun n => s.entries[n].state = .held :=
  List.filter_congr fun n _ => by simp [beq_eq_decide]

/-- The number of HELD entries fits in CMD_ARG0 (R56). -/
theorem withCount_arg0 (s u : State) : (withCount (0 + (heldFrom 0 s).length) u).cmd.arg0.toNat =
    (List.finRange 32).countP fun n => s.entries[n].state == .held := by
  have hle : (heldFrom 0 s).length ≤ 32 := (List.length_filter_le _ _).trans_eq List.length_finRange
  have hlength : (heldFrom 0 s).length = (List.finRange 32).countP fun n => s.entries[n].state == .held := by
    rw [List.countP_eq_length_filter, heldFrom]
    simp
  rw [← hlength, Nat.zero_add]
  exact Nat.mod_eq_of_lt (by omega)

theorem withCount_frame (count : Nat) {s u : State}
    (h : u = { s with entries := u.entries, lines := u.lines, captures := u.captures, waiting := u.waiting }) :
    withCount count u = { s with
      engine := (withCount count u).engine, entries := (withCount count u).entries, lines := (withCount count u).lines,
      captures := (withCount count u).captures, waiting := (withCount count u).waiting
      cmd := { s.cmd with arg0 := (withCount count u).cmd.arg0 } } := by
  rw [h]
  rfl

/-- The effects of an edge do not go by the engine's place. -/
theorem edgeEffects_withEngine {n : Fin 32} {dir : Direction} {v : Option Half} {fromTimer byRelease : Bool}
    {s t : State} (e : Engine) (h : EdgeEffects n dir v fromTimer byRelease s t) :
    EdgeEffects n dir v fromTimer byRelease s (withEngine e t) := h

/-- One release of RELEASE_ALL (R56). -/
theorem releaseAll_releases {s : State} {k count : Nat} {n : Fin 32} (hr : Releasing k count s)
    (hk : k ≤ n.val) (hheld : s.entries[n].state = .held)
    (hfirst : ∀ m : Fin 32, k ≤ m.val → m < n → s.entries[m].state ≠ .held) :
    exec (.releaseAll .advance) s =
      .next (withEngine (.releasing (n.val + 1) (count + 1)) (releaseEntry n s)) := by
  have hnext : nextHeld k s = some n := by
    rw [nextHeld, find_finRange_eq_some, Bool.and_eq_true, decide_eq_true_iff, beq_iff_eq]
    refine ⟨⟨hk, hheld⟩, fun m hm => ?_⟩
    rw [Bool.and_eq_false_imp, decide_eq_true_iff]
    exact fun hkm => beq_false_of_ne (hfirst m hkm hm)
  rw [releaseAll_advance hr, releaseAllFrom_some hnext]

/-- A RELEASE_ALL taken to its end is its next event and what is left (R38, R56). -/
theorem releaseAll_events (k count : Nat) (s : State) :
    (inReleaseAll (releaseAllFrom k count s) = false → releasedAll k count s = releaseAllFrom k count s)
      ∧ (inReleaseAll (releaseAllFrom k count s) = true →
        exec (.releaseAll .finish) (releaseAllFrom k count s) = .next (releasedAll k count s)) := by
  refine ⟨fun hended => ?_, fun hgoes => ?_⟩
  · rw [← releaseAllRest_eq (fuel := 32) count (by omega), releaseAllRest_idle _ hended]
  · cases hn : nextHeld k s with
    | none =>
      rw [releaseAllFrom_none hn, endService_inReleaseAll] at hgoes
      cases hgoes
    | some n => rw [releaseAllFrom_some hn, releaseAll_finish (.inl rfl), releasedAll_step count hn]

/-- Settles O27: the whole, one release, the completion, and the whole as its events. -/
theorem releaseAllReleasesEveryHeldEntry : Obligations.ReleaseAllReleasesEveryHeldEntry := by
  refine ⟨fun s hlaw hs => ?_, fun s k count n hlaw hr hk hheld hfirst => ?_, fun s k count hr hcount hno => ?_,
    fun s k count hr => ⟨_, _, releaseAll_advance hr, releaseAll_finish hr, endService_inReleaseAll _ _,
      releaseAll_events k count s⟩⟩
  · have hreleased := releaseEach_released (s := s) (ns := heldFrom 0 s) ((List.nodup_finRange 32).filter _)
      ⟨linesRest_of_outputLaw hlaw, linesInStep_of_outputLaw hlaw, hs.1⟩
    have hfinish := releaseAll_finish (.inr ⟨hs, rfl, rfl⟩)
    rw [releasedAll] at hfinish
    generalize releaseEach (heldFrom 0 s) s = u at hreleased hfinish
    obtain ⟨hframe, hothers, hentry, hcaptures, hwaiting⟩ := hreleased
    rw [heldFrom_zero, flatMap_filter_eq] at hcaptures hwaiting
    exact ⟨withCount (0 + (heldFrom 0 s).length) u, hfinish, withCount_frame _ hframe, withCount_arg0 s u,
      fun n hn => hothers n (mt mem_heldFrom_zero.mp hn),
      fun n hn => hentry n (mem_heldFrom_zero.mpr hn), hcaptures, hwaiting⟩
  · obtain ⟨hstate, hothers, -⟩ := releaseEntry_frame n s
    refine ⟨_, releaseAll_releases hr hk hheld hfirst, congrArg (withEngine _) hstate, fun m hm => ?_, ?_,
      edgeEffects_withEngine _ (releaseEntry_effects n (linesRest_of_outputLaw hlaw))⟩
    · rw [withEngine_entries, hothers m hm, reached_entries]
    · rw [withEngine_entries]
      exact releaseEntry_entry n s
  · have hnext : nextHeld k s = none := by
      refine List.find?_eq_none.mpr fun n _ => ?_
      rw [Bool.and_eq_true, decide_eq_true_iff, beq_iff_eq]
      exact fun h => hno n h.1 h.2
    refine ⟨BitVec.ofNat 8 count, Nat.mod_eq_of_lt hcount, ?_⟩
    rw [releaseAll_advance hr, releaseAllFrom_none hnext]
    rfl

end Sys2Proof.ReleaseAll
end

section
/-! PROOFS. A tick (O51). First what the channel unit's tick makes of the sixteen channels, then which of the owners'
takings may change places, and what the engine's choice between them can make differ. -/

namespace Sys2Proof.Ticks

open Sys2Proof.Machine Sys2Proof.Safety Sys2Proof.Claims Sys2Proof.Choosing

/-! ## A channel command and what it goes by -/

/-- What is taken for channel `c` where the command names it, and where it does not (R120). -/
theorem takeChannelCommand_named {c : Fin 16} {s : State} (h : channelArg s = some c) :
    takeChannelCommand c s = if ready .readChannel s = true then serveReadChannel s
      else if ready .writeChannel s = true then serveWriteChannel s else s := by
  rw [takeChannelCommand, if_neg (by rw [h, bne_self_eq_false]; exact Bool.false_ne_true)]

theorem takeChannelCommand_unnamed {c : Fin 16} {s : State} (h : channelArg s ≠ some c) : takeChannelCommand c s = s := by
  rw [takeChannelCommand, if_pos (bne_iff_ne.mpr h)]

/-- `x` with what a command for channel `c` goes by and writes as it is in `t`: the channel, the command unit, the staging
area, the interrupt unit and the queue's marks (R120, R138 to R140). -/
def graft (c : Fin 16) (t x : State) : State :=
  modChannel c (fun _ => t.channels[c]) { x with
    queue := t.queue, cmd := t.cmd, staging := t.staging, intr := t.intr }

theorem graft_channel (c : Fin 16) (t x : State) : (graft c t x).channels[c] = t.channels[c] := by
  rw [graft, modChannel_channels, get_set_self]

theorem graft_complete (c : Fin 16) (r : Result) (t x : State) : graft c (complete r t) x = complete r (graft c t x) :=
  rfl

theorem graft_modChannel (c : Fin 16) (f : Channel → Channel) (t x : State) :
    graft c (modChannel c f t) x = modChannel c f (graft c t x) := by
  have hself : (modChannel c f t).channels[c] = f t.channels[c] := by rw [modChannel_channels, get_set_self]
  have hset : (x.channels.set c t.channels[c]).set c (f t.channels[c]) = x.channels.set c (f t.channels[c]) :=
    Vector.set_set ..
  rw [graft, hself, eq_comm, modChannel, graft_channel, graft, modChannel_channels, hset]
  rfl

/-- A state that agrees with `t` in all of that. -/
theorem graft_of_agree {c : Fin 16} {t x : State} (hcmd : x.cmd = t.cmd) (hqueue : x.queue = t.queue)
    (hstaging : x.staging = t.staging) (hintr : x.intr = t.intr) (hchannel : x.channels[c] = t.channels[c]) :
    graft c t x = x := by
  have hset : x.channels.set c t.channels[c] = x.channels := by
    rw [← hchannel]
    exact Vector.set_getElem_self ..
  rw [graft, modChannel, ← hcmd, ← hqueue, ← hstaging, ← hintr]
  simp only [hset]

/-- A channel command goes by no more than that, and writes no more. -/
theorem takeChannelCommand_graft (c : Fin 16) (s x : State) :
    takeChannelCommand c (graft c s x) = graft c (takeChannelCommand c s) x := by
  have harg : channelArg (graft c s x) = channelArg s := rfl
  have hready (d : Command) : ready d (graft c s x) = ready d s := rfl
  by_cases h : channelArg s = some c
  · rw [takeChannelCommand_named h, takeChannelCommand_named (harg.trans h), hready, hready]
    split
    · rw [serveReadChannel, serveReadChannel, harg, h]
      dsimp only
      rw [graft_channel, graft_complete]
      rfl
    split
    · have hseen : (graft c s x).cmd.seen = s.cmd.seen := rfl
      rw [serveWriteChannel, serveWriteChannel, harg, h, hseen]
      dsimp only
      cases parseChannel s.cmd.seen with
      | none => rfl
      | some cfg =>
        dsimp only
        rw [graft_channel, apply_ite fun t => graft c t x, graft_complete, graft_complete, graft_modChannel]
    · rfl
  · rw [takeChannelCommand_unnamed h, takeChannelCommand_unnamed (harg ▸ h)]

/-- What is taken in a state that agrees with `s` in what the command goes by. -/
theorem takeChannelCommand_agree {c : Fin 16} {s x : State} (hcmd : x.cmd = s.cmd) (hqueue : x.queue = s.queue)
    (hstaging : x.staging = s.staging) (hintr : x.intr = s.intr) (hchannel : x.channels[c] = s.channels[c]) :
    takeChannelCommand c x = graft c (takeChannelCommand c s) x := by
  rw [← takeChannelCommand_graft, graft_of_agree hcmd hqueue hstaging hintr hchannel]

theorem takeChannelCommand_unready {c : Fin 16} {s : State} (hr : ready .readChannel s = false)
    (hw : ready .writeChannel s = false) : takeChannelCommand c s = s := by
  rw [takeChannelCommand, hr, hw]
  exact ite_self _

/-- A command that has been taken waits no more: taken again, it is none. -/
theorem takeChannelCommand_again {c : Fin 16} {s t : State} (h : t.cmd = (takeChannelCommand c s).cmd) :
    takeChannelCommand c t = t := by
  have done (ht : t.cmd.state = .done) (d : Command) : ready d t = false := by rw [ready, ht]; rfl
  have ready_congr (ht : t.cmd = s.cmd) (d : Command) : ready d t = ready d s := by rw [ready, ready, ht]
  by_cases ha : channelArg s = some c
  · rw [takeChannelCommand_named ha] at h
    split at h
    · have ht : t.cmd.state = .done := by
        rw [h, serveReadChannel, ha]
        rfl
      exact takeChannelCommand_unready (done ht _) (done ht _)
    · next hr =>
      split at h
      · have ht : t.cmd.state = .done := by
          rw [h, serveWriteChannel, ha]
          dsimp only
          split
          · rfl
          · split <;> rfl
        exact takeChannelCommand_unready (done ht _) (done ht _)
      · next hw =>
        exact takeChannelCommand_unready ((ready_congr h _).trans (Bool.eq_false_iff.mpr hr))
          ((ready_congr h _).trans (Bool.eq_false_iff.mpr hw))
  · rw [takeChannelCommand_unnamed ha] at h
    exact takeChannelCommand_unnamed (by rw [channelArg, h]; exact ha)

/-- It keeps its argument, and with it the channel it names (R167). -/
theorem channelArg_takeChannelCommand (c : Fin 16) (s : State) : channelArg (takeChannelCommand c s) = channelArg s := by
  rcases takeChannelCommand_cases c s with e | ⟨-, -, r, cfg, b, e⟩ <;> rw [e]
  rfl

/-! ## The channel unit's tick -/

/-- The tick that channel `c` is to take brings its freshness timer to zero (R131). -/
def expires (c : Fin 16) (s : State) : Bool :=
  s.due.channels[c] != 0 && s.channels[c].fresh.expiring

/-- What the tick finds when the channels of `cs` have taken it: a command that waits for one whose timer it brings to
zero has been taken (R120). -/
@[irreducible] def foundIn (cs : List (Fin 16)) (s : State) : State :=
  match channelArg s with
  | none => s
  | some c => if c ∈ cs ∧ expires c s = true then takeChannelCommand c s else s

/-- Channel `c` behind its tick (R131 to R133). -/
def tickedChannel (c : Fin 16) (s : State) : Channel :=
  if s.due.channels[c] = 0 then s.channels[c]
  else if s.channels[c].fresh.expiring = true then (takeChannelCommand c s).channels[c].expired
  else { s.channels[c] with fresh := s.channels[c].fresh.tick }

/-- The STALE record of channel `c` at its tick, if there is one (R134). -/
def staleRecords (c : Fin 16) (s : State) : List Waiting :=
  let ch := (takeChannelCommand c s).channels[c]
  channelRecordIf (expires c s && (ch.cfg.faultEvents && (ch.state == .waiting || ch.state == .live))) s.workItem
    (.stale c) ch.cfg.faultSeverity none 0

/-- Between `s` and `t` the channels of `cs` have taken a tick, in this order (R131, R159). -/
structure TickTaken (cs : List (Fin 16)) (s t : State) : Prop where
  frame : t = { foundIn cs s with
    channels := t.channels, due := { s.due with channels := t.due.channels }, waiting := t.waiting }
  due : ∀ c : Fin 16, t.due.channels[c] = if c ∈ cs then s.due.channels[c] - 1 else s.due.channels[c]
  channels : ∀ c : Fin 16, t.channels[c] = if c ∈ cs then tickedChannel c s else s.channels[c]
  waiting : t.waiting = s.waiting ++ cs.flatMap fun c => staleRecords c s

theorem tickTaken_nil (s : State) : TickTaken [] s s := by
  have hfound : foundIn [] s = s := by
    unfold foundIn
    split
    · rfl
    · exact if_neg fun h => List.not_mem_nil h.1
  exact ⟨by rw [hfound], fun _ => (if_neg List.not_mem_nil).symm, fun _ => (if_neg List.not_mem_nil).symm,
    (List.append_nil _).symm⟩

/-- One channel more. -/
theorem TickTaken.extend {cs : List (Fin 16)} {c : Fin 16} {s w t : State} (h : TickTaken cs s w)
    (hframe : t = { foundIn (cs ++ [c]) s with
      channels := t.channels, due := { s.due with channels := t.due.channels }, waiting := t.waiting })
    (hdue : t.due.channels = w.due.channels.set c (s.due.channels[c] - 1))
    (hchannels : t.channels = w.channels.set c (tickedChannel c s))
    (hwaiting : t.waiting = w.waiting ++ staleRecords c s) : TickTaken (cs ++ [c]) s t := by
  have hmem (d : Fin 16) (hd : d ≠ c) : d ∈ cs ++ [c] ↔ d ∈ cs := by
    rw [List.mem_append, List.mem_singleton, or_iff_left hd]
  refine ⟨hframe, fun d => ?_, fun d => ?_, ?_⟩
  · by_cases hd : d = c
    · rw [hdue, hd, get_set_self, if_pos (by simp)]
    · rw [hdue, get_set_ne _ _ hd, h.due d]
      exact if_congr (hmem d hd).symm rfl rfl
  · by_cases hd : d = c
    · rw [hchannels, hd, get_set_self, if_pos (by simp)]
    · rw [hchannels, get_set_ne _ _ hd, h.channels d]
      exact if_congr (hmem d hd).symm rfl rfl
  · rw [hwaiting, h.waiting, List.flatMap_append, List.flatMap_singleton, List.append_assoc]

/-- A tick that does not bring the channel's timer to zero finds no command and makes no record. -/
theorem foundIn_append_of_not_expires {cs : List (Fin 16)} {c : Fin 16} {s : State} (h : expires c s = false) :
    foundIn (cs ++ [c]) s = foundIn cs s := by
  unfold foundIn
  split
  · rfl
  · next d _ =>
    refine if_congr ?_ rfl rfl
    rw [List.mem_append, List.mem_singleton]
    constructor
    · rintro ⟨hd | rfl, he⟩
      · exact ⟨hd, he⟩
      · rw [h] at he
        cases he
    · exact fun hd => ⟨.inl hd.1, hd.2⟩

theorem staleRecords_of_not_expires {c : Fin 16} {s : State} (h : expires c s = false) : staleRecords c s = [] := by
  rw [staleRecords, h]
  rfl

/-- The command that waits for the channel, once its tick has come. -/
theorem foundIn_append_of_expires {cs : List (Fin 16)} {c : Fin 16} {s : State} (hc : c ∉ cs) (h : expires c s = true) :
    (channelArg s = some c ∧ foundIn cs s = s ∧ foundIn (cs ++ [c]) s = takeChannelCommand c s)
      ∨ (channelArg (foundIn cs s) ≠ some c ∧ takeChannelCommand c s = s ∧ foundIn (cs ++ [c]) s = foundIn cs s) := by
  unfold foundIn
  cases ha : channelArg s with
  | none =>
    have hne : channelArg s ≠ some c := by rw [ha]; nofun
    exact .inr ⟨hne, takeChannelCommand_unnamed hne, rfl⟩
  | some d =>
    dsimp only
    by_cases hd : d = c
    · subst hd
      exact .inl ⟨rfl, if_neg fun h => hc h.1, if_pos ⟨List.mem_append_right _ List.mem_cons_self, h⟩⟩
    · have hne : channelArg s ≠ some c := fun e => hd (Option.some.inj (ha.symm.trans e))
      refine .inr ⟨?_, takeChannelCommand_unnamed hne, if_congr ?_ rfl rfl⟩
      · split
        · rwa [channelArg_takeChannelCommand]
        · exact hne
      · rw [List.mem_append, List.mem_singleton, or_iff_left hd]

/-- It differs from `s` in what a channel command reaches. -/
theorem foundIn_frame (cs : List (Fin 16)) (s : State) : foundIn cs s = { s with
    channels := (foundIn cs s).channels, cmd := (foundIn cs s).cmd, staging := (foundIn cs s).staging,
    intr := (foundIn cs s).intr } := by
  unfold foundIn
  split
  · rfl
  · split
    · exact takeChannelCommand_frame _ s
    · rfl

theorem set_of_same {α : Type} {k : Nat} {v : Vector α k} {c : Fin k} {x : α} (h : x = v[c]) : v.set c x = v := by
  rw [h]
  exact Vector.set_getElem_self ..

/-- The STALE record of a freshness expiry (R134). -/
theorem freshnessExpiry_waiting (c : Fin 16) (s : State) :
    (freshnessExpiry c s).waiting = s.waiting ++ channelRecordIf
      (s.channels[c].cfg.faultEvents && (s.channels[c].state == .waiting || s.channels[c].state == .live)) s.workItem
      (.stale c) s.channels[c].cfg.faultSeverity none 0 := by
  rw [freshnessExpiry, handOverIf_eq]
  rfl

/-- What is taken before a freshness expiry of channel `c`, where the channels of `cs` have taken their tick. -/
theorem TickTaken.takeChannelCommand {cs : List (Fin 16)} {c : Fin 16} {s w x : State} (h : TickTaken cs s w)
    (hc : c ∉ cs) (hx : expires c s = true) (due : Vector Nat 16)
    (hw : x = { w with due := { w.due with channels := due } }) :
    Machine.takeChannelCommand c x = { foundIn (cs ++ [c]) s with
      channels := w.channels.set c (Machine.takeChannelCommand c s).channels[c]
      due := { s.due with channels := due }, waiting := w.waiting } := by
  have hch : w.channels[c] = s.channels[c] := (h.channels c).trans (if_neg hc)
  have hframe := h.frame
  rcases foundIn_append_of_expires hc hx with ⟨-, hf, hfound⟩ | ⟨harg, hs, hfound⟩ <;> rw [hfound]
  · rw [hf] at hframe
    have hagree := takeChannelCommand_agree (c := c) (s := s) (x := x) (by rw [hw, hframe]) (by rw [hw, hframe])
      (by rw [hw, hframe]) (by rw [hw, hframe]) (by rw [hw]; exact hch)
    rw [hagree, graft, hw, hframe, takeChannelCommand_frame c s]
    rfl
  · have hset : w.channels.set c (Machine.takeChannelCommand c s).channels[c] = w.channels :=
      set_of_same (by rw [hs, hch])
    have hxarg : channelArg x ≠ some c := by
      rw [hw, hframe]
      exact harg
    rw [takeChannelCommand_unnamed hxarg, hset, hw]
    rw [hframe]

/-- The channel unit takes its tick for one channel more (R131, R132). -/
theorem TickTaken.step {cs : List (Fin 16)} {c : Fin 16} {s w : State} (h : TickTaken cs s w) (hc : c ∉ cs) :
    TickTaken (cs ++ [c]) s (channelTick c w) := by
  have hdue : w.due.channels[c] = s.due.channels[c] := (h.due c).trans (if_neg hc)
  have hch : w.channels[c] = s.channels[c] := (h.channels c).trans (if_neg hc)
  have hframe := h.frame
  rcases channelTick_cases c w with ⟨h0, e⟩ | ⟨h0, hx, e⟩ | ⟨h0, hx, e⟩ <;> rw [hdue] at h0
  · have hno : expires c s = false := by rw [expires, h0]; rfl
    rw [e]
    refine h.extend (by rw [foundIn_append_of_not_expires hno]; exact hframe) (set_of_same ?_).symm
      (set_of_same ?_).symm (by rw [staleRecords_of_not_expires hno, List.append_nil])
    · rw [hdue, h0]
    · rw [hch, tickedChannel, if_pos h0]
  · rw [hch] at hx
    have hyes : expires c s = true := by rw [expires, hx, Bool.and_true]; exact bne_iff_ne.mpr h0
    have hfound := h.takeChannelCommand hc hyes (w.due.channels.set c (w.due.channels[c] - 1)) rfl
    rw [e, hfound]
    generalize hv : ({ foundIn (cs ++ [c]) s with
      channels := w.channels.set c (Machine.takeChannelCommand c s).channels[c]
      due := { s.due with channels := w.due.channels.set c (w.due.channels[c] - 1) }, waiting := w.waiting } : State) = v
    have hvc : v.channels[c] = (Machine.takeChannelCommand c s).channels[c] := by rw [← hv]; exact get_set_self _ _ _
    have hitem : v.workItem = s.workItem := by rw [← hv, foundIn_frame]
    refine h.extend ?_ ?_ ?_ ?_
    · rw [freshnessExpiry_frame, ← hv]
    · rw [freshnessExpiry_frame, ← hv, ← hdue]
    · rw [freshnessExpiry_frame, hvc, tickedChannel, if_neg h0, if_pos hx, ← hv]
      exact Vector.set_set ..
    · rw [freshnessExpiry_waiting, hvc, hitem, staleRecords, hyes, Bool.true_and, ← hv]
  · rw [hch] at hx
    have hno : expires c s = false := by rw [expires, hx, Bool.and_false]
    rw [e]
    refine h.extend ?_ ?_ ?_ ?_
    · rw [foundIn_append_of_not_expires hno, hframe]
      rfl
    · rw [← hdue]
      rfl
    · rw [tickedChannel, if_neg h0, hx, ← hch]
      rfl
    · rw [staleRecords_of_not_expires hno, List.append_nil]
      rfl

/-- What the tick of the channel unit leaves (R131 to R134, R159). -/
@[irreducible] def tickedChannels (s : State) : State :=
  (List.finRange 16).foldl (fun u c => channelTick c u) s

theorem channelTicks_eq_choice (s : State) : channelTicks s = chooseWork (tickedChannels s) := by
  unfold channelTicks tickedChannels
  exact Eq.refl _

theorem tickedChannels_taken (s : State) : TickTaken (List.finRange 16) s (tickedChannels s) := by
  have fold (cs ds : List (Fin 16)) (w : State) (hnodup : (cs ++ ds).Nodup) (h : TickTaken cs s w) :
      TickTaken (cs ++ ds) s (ds.foldl (fun u c => channelTick c u) w) := by
    induction ds generalizing cs w with
    | nil => rwa [List.append_nil]
    | cons d ds ih =>
      have hd : d ∉ cs := fun hmem => (List.nodup_append.mp hnodup).2.2 d hmem d List.mem_cons_self rfl
      rw [List.append_cons] at hnodup ⊢
      exact ih (cs ++ [d]) _ hnodup (h.step hd)
  unfold tickedChannels
  exact fold [] (List.finRange 16) s (List.nodup_finRange 16) (tickTaken_nil s)

/-! ## The channel unit's tick as the rules have it -/

theorem half_le_one_iff {x : Half} (h : x ≠ 0) : x.toNat ≤ 1 ↔ x = 1 := by
  have hpos : x.toNat ≠ 0 := fun e => h (BitVec.eq_of_toNat_eq e)
  constructor
  · exact fun hle => BitVec.eq_of_toNat_eq (by change x.toNat = 1; omega)
  · rintro rfl
    decide

theorem fresh_expiring_iff {f : FreshTimer} (h : f ≠ .running 0) : f.expiring = true ↔ f = .running 1 := by
  cases f with
  | unloaded => exact iff_of_false Bool.false_ne_true nofun
  | running x =>
    rw [FreshTimer.expiring, decide_eq_true_iff, half_le_one_iff fun e => h (by rw [e]), FreshTimer.running.injEq]

theorem expires_iff {c : Fin 16} {s : State} (h : s.channels[c].fresh ≠ .running 0) :
    expires c s = true ↔ s.due.channels[c] ≠ 0 ∧ s.channels[c].fresh = .running 1 := by
  rw [expires, Bool.and_eq_true, bne_iff_ne, fresh_expiring_iff h]

/-- What the whole tick of the channel unit finds (R120). -/
theorem found_eq {s u : State} (hpos : ∀ c : Fin 16, s.channels[c].fresh ≠ .running 0)
    (hnamed : ∀ c : Fin 16, Index c s → u =
      if s.due.channels[c] ≠ 0 ∧ s.channels[c].fresh = .running 1 then channelTaken c s else s)
    (hnone : 16 ≤ s.cmd.captured0.toNat → u = s) : foundIn (List.finRange 16) s = u := by
  unfold foundIn
  cases ha : channelArg s with
  | none => exact (hnone (indexOf_eq_none.mp ha)).symm
  | some c =>
    rw [hnamed c (indexOf_eq_some.mp ha), channelTaken_eq]
    refine if_congr ?_ rfl rfl
    rw [expires_iff (hpos c), and_iff_right (List.mem_finRange c)]

/-- A channel whose freshness expires stands there as the command that waited for it has left it. -/
theorem found_channel {c : Fin 16} {s : State} (h : expires c s = true) :
    (foundIn (List.finRange 16) s).channels[c] = (takeChannelCommand c s).channels[c] := by
  unfold foundIn
  cases ha : channelArg s with
  | none => rw [takeChannelCommand_unnamed (by rw [ha]; nofun)]
  | some d =>
    dsimp only
    by_cases hd : c = d
    · subst hd
      rw [if_pos ⟨List.mem_finRange c, h⟩]
    · have hne : channelArg s ≠ some c := fun e => hd (Option.some.inj (e.symm.trans ha))
      rw [takeChannelCommand_unnamed hne]
      split
      · obtain ⟨cfg, e, hcfg⟩ := takeChannelCommand_channels d c s
        rw [e, hcfg hd]
      · rfl

theorem takeChannelCommand_state (c : Fin 16) (s : State) :
    (takeChannelCommand c s).channels[c].state = s.channels[c].state := by
  obtain ⟨cfg, e, -⟩ := takeChannelCommand_channels c c s
  rw [e]

/-- A channel whose count does not move. -/
theorem tickedChannel_still {c : Fin 16} {s : State} (h : s.due.channels[c] = 0 ∨ s.channels[c].fresh = .unloaded) :
    tickedChannel c s = s.channels[c] := by
  unfold tickedChannel
  split
  · rfl
  · next h0 =>
    have hf := h.resolve_left h0
    have hx : s.channels[c].fresh.expiring = false := by rw [hf]; rfl
    have ht : s.channels[c].fresh.tick = s.channels[c].fresh := by rw [hf]; rfl
    rw [hx, if_neg Bool.false_ne_true, ht]

/-- A channel whose freshness expires (R132, R133). -/
theorem tickedChannel_expires {c : Fin 16} {s : State} (h : expires c s = true) :
    tickedChannel c s = (foundIn (List.finRange 16) s).channels[c].expired := by
  rw [found_channel h]
  rw [expires, Bool.and_eq_true, bne_iff_ne] at h
  rw [tickedChannel, if_neg h.1, if_pos h.2]

theorem expires_eq {c : Fin 16} {s : State} (h : s.channels[c].fresh ≠ .running 0) :
    expires c s = (s.due.channels[c] != 0 && s.channels[c].fresh == .running 1) := by
  rw [Bool.eq_iff_iff, expires_iff h, Bool.and_eq_true, bne_iff_ne, beq_iff_eq]

/-- The STALE record of a channel, in the terms of what the tick finds (R134). -/
theorem staleRecords_eq {c : Fin 16} {s : State} (hpos : s.channels[c].fresh ≠ .running 0) :
    staleRecords c s = channelRecordIf
      (s.due.channels[c] != 0 && s.channels[c].fresh == .running 1
        && (foundIn (List.finRange 16) s).channels[c].cfg.faultEvents
        && (s.channels[c].state == .waiting || s.channels[c].state == .live))
      s.workItem (.stale c) (foundIn (List.finRange 16) s).channels[c].cfg.faultSeverity none 0 := by
  rw [← expires_eq hpos]
  by_cases h : expires c s = true
  · rw [found_channel h, staleRecords, takeChannelCommand_state, Bool.and_assoc]
  · rw [Bool.not_eq_true] at h
    rw [staleRecords_of_not_expires h, h]
    rfl

/-- A freshness expiry of a channel that is WAITING or LIVE, and of one that is STALE (R132, R133). -/
theorem expired_of_active {ch : Channel} (h : ch.state = .waiting ∨ ch.state = .live) : ch.expired =
    { ch with state := .stale, ring := [], slot := some .fault, fresh := .unloaded } := by
  rcases h with h | h <;> rw [Channel.expired, h]

theorem expired_of_stale {ch : Channel} (h : ch.state = .stale) :
    ch.expired = { ch with slot := some .fault, fresh := .unloaded } := by
  rw [Channel.expired, h]

/-- The channel unit's part of O51. -/
theorem channelUnit_takes_tick {s u : State} (hpos : ∀ c : Fin 16, s.channels[c].fresh ≠ .running 0)
    (hu : foundIn (List.finRange 16) s = u) :
    tickedChannels s = { u with
        channels := (tickedChannels s).channels, due := { s.due with channels := (tickedChannels s).due.channels }
        waiting := s.waiting ++ (List.finRange 16).flatMap (fun c =>
          channelRecordIf
            (s.due.channels[c] != 0 && s.channels[c].fresh == .running 1 && u.channels[c].cfg.faultEvents
              && (s.channels[c].state == .waiting || s.channels[c].state == .live))
            s.workItem (.stale c) u.channels[c].cfg.faultSeverity none 0) }
      ∧ ∀ c : Fin 16, (tickedChannels s).due.channels[c] = s.due.channels[c] - 1
        ∧ (s.due.channels[c] = 0 ∨ s.channels[c].fresh = .unloaded →
          (tickedChannels s).channels[c] = s.channels[c])
        ∧ (s.due.channels[c] ≠ 0 → ∀ k : Half, s.channels[c].fresh = .running k → k ≠ 1 →
            (tickedChannels s).channels[c] = { s.channels[c] with fresh := .running (k - 1) })
        ∧ (s.due.channels[c] ≠ 0 → s.channels[c].fresh = .running 1 →
            (s.channels[c].state = .waiting ∨ s.channels[c].state = .live →
              (tickedChannels s).channels[c] = { u.channels[c] with
                state := .stale, ring := [], slot := some .fault, fresh := .unloaded })
              ∧ (s.channels[c].state = .stale → (tickedChannels s).channels[c] = { u.channels[c] with
                  slot := some .fault, fresh := .unloaded })) := by
  obtain ⟨hframe, hdue, hchannels, hwaiting⟩ := tickedChannels_taken s
  rw [hu] at hframe
  refine ⟨?_, fun c => ?_⟩
  · rw [hwaiting, List.flatMap_congr fun c _ => staleRecords_eq (hpos c), hu] at hframe
    exact hframe
  · have hc := hchannels c
    rw [if_pos (List.mem_finRange c)] at hc
    refine ⟨(hdue c).trans (if_pos (List.mem_finRange c)), fun h => hc.trans (tickedChannel_still h), fun h0 k hk hne => ?_,
      fun h0 h1 => ?_⟩
    · have hx : s.channels[c].fresh.expiring = false := by
        rw [Bool.eq_false_iff, Ne, fresh_expiring_iff (hpos c), hk, FreshTimer.running.injEq]
        exact hne
      rw [hc, tickedChannel, if_neg h0, hx, if_neg Bool.false_ne_true, hk]
      rfl
    · have hx : expires c s = true := (expires_iff (hpos c)).mpr ⟨h0, h1⟩
      have hstate : u.channels[c].state = s.channels[c].state := by
        rw [← hu, found_channel hx, takeChannelCommand_state]
      rw [hc, tickedChannel_expires hx, hu]
      exact ⟨fun h => expired_of_active (hstate ▸ h), fun h => expired_of_stale (hstate.trans h)⟩

end Sys2Proof.Ticks
end

section
/-! PROOFS. The order in which the owners take a tick (O51): which takings may change places, and what the engine's choice
between them can make differ. -/

namespace Sys2Proof.TickOrder

open Sys2Proof.Machine Sys2Proof.Safety Sys2Proof.Claims Sys2Proof.Choosing Sys2Proof.Ticks

/-! ## What the channel unit's tick and the engine's choice go by -/

/-- `x` agrees with `s` in what the channel unit goes by, but for the number of the work item. -/
structure SameChannels (s x : State) : Prop where
  cmd : x.cmd = s.cmd
  queue : x.queue = s.queue
  staging : x.staging = s.staging
  intr : x.intr = s.intr
  channels : x.channels = s.channels
  due : x.due.channels = s.due.channels

theorem SameChannels.refl (s : State) : SameChannels s s := ⟨rfl, rfl, rfl, rfl, rfl, rfl⟩

theorem SameChannels.takeChannelCommand {s x : State} (h : SameChannels s x) (c : Fin 16) :
    Machine.takeChannelCommand c x = { x with
      channels := (Machine.takeChannelCommand c s).channels, cmd := (Machine.takeChannelCommand c s).cmd
      staging := (Machine.takeChannelCommand c s).staging, intr := (Machine.takeChannelCommand c s).intr } := by
  have hs : graft c (Machine.takeChannelCommand c s) s = Machine.takeChannelCommand c s :=
    (takeChannelCommand_agree rfl rfl rfl rfl rfl).symm
  have hchannels : s.channels.set c (Machine.takeChannelCommand c s).channels[c] =
      (Machine.takeChannelCommand c s).channels := congrArg State.channels hs
  have hqueue : (Machine.takeChannelCommand c s).queue = x.queue := by rw [takeChannelCommand_frame, h.queue]
  rw [takeChannelCommand_agree h.cmd h.queue h.staging h.intr (by rw [h.channels]), graft, modChannel, hqueue]
  dsimp only
  rw [h.channels, hchannels]

theorem SameChannels.expires {s x : State} (h : SameChannels s x) (c : Fin 16) : Ticks.expires c x = Ticks.expires c s := by
  rw [Ticks.expires, h.due, h.channels, Ticks.expires]

theorem SameChannels.foundIn {s x : State} (h : SameChannels s x) (cs : List (Fin 16)) :
    Ticks.foundIn cs x = { x with
      channels := (Ticks.foundIn cs s).channels, cmd := (Ticks.foundIn cs s).cmd
      staging := (Ticks.foundIn cs s).staging, intr := (Ticks.foundIn cs s).intr } := by
  have same : x = { x with channels := s.channels, cmd := s.cmd, staging := s.staging, intr := s.intr } := by
    rw [← h.channels, ← h.cmd, ← h.staging, ← h.intr]
  have harg : channelArg x = channelArg s := by rw [channelArg, h.cmd, channelArg]
  unfold Ticks.foundIn
  rw [harg]
  cases channelArg s with
  | none => exact same
  | some c =>
    dsimp only
    rw [h.expires]
    split
    · exact h.takeChannelCommand c
    · exact same

theorem SameChannels.tickedChannel {s x : State} (h : SameChannels s x) (c : Fin 16) :
    Ticks.tickedChannel c x = Ticks.tickedChannel c s := by
  have hcmd : (Machine.takeChannelCommand c x).channels = (Machine.takeChannelCommand c s).channels := by
    rw [h.takeChannelCommand]
  rw [Ticks.tickedChannel, h.due, h.channels, hcmd, Ticks.tickedChannel]

/-- The STALE records of a tick (R134). -/
def tickRecords (s : State) : List Waiting :=
  (List.finRange 16).flatMap fun c => staleRecords c s

theorem SameChannels.tickRecords {s x : State} (h : SameChannels s x) (hitem : x.workItem = s.workItem) :
    TickOrder.tickRecords x = TickOrder.tickRecords s := by
  refine List.flatMap_congr fun c _ => ?_
  have hcmd : (Machine.takeChannelCommand c x).channels = (Machine.takeChannelCommand c s).channels := by
    rw [h.takeChannelCommand]
  rw [staleRecords, hcmd, h.expires, hitem, staleRecords]

/-- The channel unit's tick in a state that agrees with `s`: the same of it, beside records of its own. -/
theorem SameChannels.ticked {s x t y : State} (h : SameChannels s x) (hs : TickTaken (List.finRange 16) s t)
    (hx : TickTaken (List.finRange 16) x y) : y = { x with
      channels := t.channels, cmd := t.cmd, staging := t.staging, intr := t.intr
      due := { x.due with channels := t.due.channels }, waiting := x.waiting ++ TickOrder.tickRecords x } := by
  obtain ⟨hframe, hdue, hchannels, hwaiting⟩ := hx
  have hch : y.channels = t.channels := table_ext fun c => by
    rw [hchannels, hs.channels, h.tickedChannel, h.channels]
  have hcount : y.due.channels = t.due.channels := table_ext fun c => by rw [hdue, hs.due, h.due]
  have hfound := hs.frame
  have hsame := h.foundIn (List.finRange 16)
  generalize Ticks.foundIn (List.finRange 16) s = f at hfound hsame
  generalize Ticks.foundIn (List.finRange 16) x = g at hframe hsame
  have hcmd : t.cmd = f.cmd := by rw [hfound]
  have hstaging : t.staging = f.staging := by rw [hfound]
  have hintr : t.intr = f.intr := by rw [hfound]
  rw [hframe, hch, hcount, hwaiting, hsame, hcmd, hstaging, hintr]
  rfl

theorem tickTaken_cmd {s t : State} (h : TickTaken (List.finRange 16) s t) : t.cmd = (foundIn (List.finRange 16) s).cmd := by
  rw [h.frame]

theorem tickTaken_frame {s t : State} (h : TickTaken (List.finRange 16) s t) : t = { s with
    channels := t.channels, cmd := t.cmd, staging := t.staging, intr := t.intr
    due := { s.due with channels := t.due.channels }, waiting := s.waiting ++ tickRecords s } :=
  (SameChannels.refl s).ticked h h

theorem tickedChannels_frame (s : State) :
    tickedChannels s = { s with
      channels := (tickedChannels s).channels, cmd := (tickedChannels s).cmd, staging := (tickedChannels s).staging
      intr := (tickedChannels s).intr, due := { s.due with channels := (tickedChannels s).due.channels }
      waiting := s.waiting ++ tickRecords s } :=
  tickTaken_frame (tickedChannels_taken s)

/-- The engine's choice in a state that agrees with `s` and in which the same expiry comes first. -/
theorem SameChannels.chooseWork {s x : State} (h : SameChannels s x) (he : x.engine = s.engine)
    (hp : x.pointer = s.pointer) (hi : x.workItem = s.workItem) (hn : nextExpiry x = nextExpiry s) :
    Machine.chooseWork x = { x with
      engine := (Machine.chooseWork s).engine, workItem := (Machine.chooseWork s).workItem
      pointer := (Machine.chooseWork s).pointer, channels := (Machine.chooseWork s).channels
      cmd := (Machine.chooseWork s).cmd, staging := (Machine.chooseWork s).staging
      intr := (Machine.chooseWork s).intr } := by
  have same : x = { x with engine := s.engine, workItem := s.workItem, pointer := s.pointer, channels := s.channels
                           cmd := s.cmd, staging := s.staging, intr := s.intr } := by
    rw [← he, ← hi, ← hp, ← h.channels, ← h.cmd, ← h.staging, ← h.intr]
  have hclaim : nextClaim x = nextClaim s := by rw [nextClaim, hn, tableWaiting, h.cmd]; rfl
  have hchannel : nextChannel x = nextChannel s := by rw [nextChannel, hp, h.channels]; rfl
  rcases chooseWork_cases s with ⟨hb, e⟩ | ⟨-, hc, hnone, e⟩ | ⟨c, hf, hc, e⟩ | ⟨c, item, hf, hc, hsome, hslot, e⟩ <;> rw [e]
  · rw [chooseWork_busy (he ▸ hb)]
    exact same
  · rw [chooseWork_nothing (hclaim.trans hc) (nextChannel_eq_none.mp (hchannel.trans hnone))]
    exact same
  · rw [chooseWork_claim (he.trans hf) (hclaim.trans hc), takeClaim, takeClaim, hi]
    dsimp only
    rw [← hp, ← h.channels, ← h.cmd, ← h.staging, ← h.intr]
  · rw [chooseWork_item (he.trans hf) (hclaim.trans hc) (hchannel.trans hsome) (by rw [h.channels, hslot]), takeItem,
      takeItem, h.takeChannelCommand, hi]
    rfl

/-! ## The takings that may change places -/

/-- TIMESTAMP behind its tick (R158). -/
def stamped (s : State) : State :=
  { s with timebase := { s.timebase with timestamp := s.timebase.timestamp + 1 }
           due := { s.due with timestamp := s.due.timestamp - 1 } }

theorem stampTick_eq (s : State) : stampTick s = if s.due.timestamp = 0 then s else stamped s := rfl

theorem sameChannels_stamped (s : State) : SameChannels s (stamped s) := ⟨rfl, rfl, rfl, rfl, rfl, rfl⟩

theorem sameChannels_bankTimers (s : State) : SameChannels s (bankTimers s) := by
  rw [bankTimers]
  exact ⟨rfl, rfl, rfl, rfl, rfl, rfl⟩

theorem sameChannels_takeClaim (k : Claim) (s : State) : SameChannels s (takeClaim k s) := ⟨rfl, rfl, rfl, rfl, rfl, rfl⟩

theorem chooseWork_stamped (s : State) : chooseWork (stamped s) = stamped (chooseWork s) := by
  have hframe := chooseWork_frame s
  rw [(sameChannels_stamped s).chooseWork rfl rfl rfl rfl]
  generalize chooseWork s = t at hframe ⊢
  rw [hframe]
  rfl

theorem tickedChannels_stamped (s : State) : tickedChannels (stamped s) = stamped (tickedChannels s) := by
  have hs := tickedChannels_taken s
  generalize tickedChannels s = t at hs ⊢
  rw [(sameChannels_stamped s).ticked hs (tickedChannels_taken _), (sameChannels_stamped s).tickRecords rfl,
    tickTaken_frame hs]
  rfl

theorem bankTimers_engine (s : State) : (bankTimers s).engine = s.engine := by
  rw [bankTimers]

theorem bankTimers_pointer (s : State) : (bankTimers s).pointer = s.pointer := by
  rw [bankTimers]

theorem bankTimers_workItem (s : State) : (bankTimers s).workItem = s.workItem := by
  rw [bankTimers]

theorem tickedChannels_bankTimers (s : State) : tickedChannels (bankTimers s) = bankTimers (tickedChannels s) := by
  have hs := tickedChannels_taken s
  generalize tickedChannels s = t at hs ⊢
  rw [(sameChannels_bankTimers s).ticked hs (tickedChannels_taken _),
    (sameChannels_bankTimers s).tickRecords (bankTimers_workItem s), tickTaken_frame hs, bankTimers, bankTimers]

theorem tickedChannels_takeClaim (k : Claim) (s : State) : tickedChannels (takeClaim k s) =
    { takeClaim k (tickedChannels s) with waiting := s.waiting ++ tickRecords (takeClaim k s) } := by
  have hs := tickedChannels_taken s
  generalize tickedChannels s = t at hs ⊢
  rw [(sameChannels_takeClaim k s).ticked hs (tickedChannels_taken _), tickTaken_frame hs]
  rfl

/-- TIMESTAMP takes its tick before or behind whatever leaves its due ticks alone and goes by neither. -/
theorem stampTick_comm {f : State → State} {s : State} (hdue : (f s).due.timestamp = s.due.timestamp)
    (hf : f (stamped s) = stamped (f s)) : stampTick (f s) = f (stampTick s) := by
  rw [stampTick_eq, stampTick_eq, hdue, apply_ite f, hf]

theorem stampTick_bankTick (s : State) : stampTick (bankTick s) = bankTick (stampTick s) := by
  refine stampTick_comm ?_ ?_
  · rcases bankTick_cases s with ⟨-, e⟩ | ⟨-, e⟩ <;> rw [e]
    rw [chooseWork_due]
    rfl
  · have hbank : bankTimers (stamped s) = stamped (bankTimers s) := rfl
    rw [bankTick, bankTick, hbank, chooseWork_stamped, apply_ite stamped]
    rfl

theorem stampTick_channelTicks (s : State) : stampTick (channelTicks s) = channelTicks (stampTick s) := by
  refine stampTick_comm ?_ ?_
  · rw [channelTicks_eq_choice, chooseWork_due, tickedChannels_frame]
  · rw [channelTicks_eq_choice, channelTicks_eq_choice, tickedChannels_stamped, chooseWork_stamped]

/-! ## The choice between two takings -/

theorem takeClaim_busy (k : Claim) (s : State) : (takeClaim k s).engine ≠ .free := by
  rw [takeClaim_engine]
  nofun

theorem chooseWork_chooseWork (s : State) : chooseWork (chooseWork s) = chooseWork s := by
  rcases chooseWork_cases s with ⟨-, e⟩ | ⟨-, -, -, e⟩ | ⟨c, -, -, e⟩ | ⟨c, item, -, -, -, -, e⟩ <;> rw [e]
  · rw [e]
  · rw [e]
  · exact chooseWork_busy nofun
  · exact chooseWork_busy nofun

/-- An engine that is free behind its choice has found nothing. -/
theorem chooseWork_of_free {s : State} (h : (chooseWork s).engine = .free) : chooseWork s = s := by
  rcases chooseWork_cases s with ⟨-, e⟩ | ⟨-, -, -, e⟩ | ⟨c, -, -, e⟩ | ⟨c, item, -, -, -, -, e⟩
  · exact e
  · exact e
  · rw [e] at h
    cases h
  · rw [e] at h
    cases h

/-- Where no slot holds an item the engine takes a claim, or nothing. -/
theorem chooseWork_of_slots_empty {s : State} (h : ∀ c : Fin 16, s.channels[c].slot = none) :
    chooseWork s = s ∨ ∃ k : Claim, s.engine = .free ∧ nextClaim s = some k ∧ chooseWork s = takeClaim k s := by
  rcases chooseWork_cases s with ⟨-, e⟩ | ⟨-, -, -, e⟩ | ⟨c, hf, hc, e⟩ | ⟨c, item, -, -, -, hs, -⟩
  · exact .inl e
  · exact .inl e
  · exact .inr ⟨c, hf, hc, e⟩
  · rw [h c] at hs
    cases hs

theorem nextExpiry_congr {s x : State} (hq : ∀ n : Fin 32, x.entries[n].qualClaim = s.entries[n].qualClaim)
    (hs : ∀ n : Fin 32, x.entries[n].shapeClaim = s.entries[n].shapeClaim) : nextExpiry x = nextExpiry s := by
  unfold nextExpiry
  simp only [hq, hs]

theorem timer_tick_expired {t : Timer} (h : t.expiring = false) : (t.tick == .expired) = (t == .expired) := by
  cases t with
  | unloaded | expired => rfl
  | running c =>
    rw [Timer.tick, if_neg (of_decide_eq_false h)]
    rfl

/-- A tick that brings no timer to zero raises no claim (R41). -/
theorem nextExpiry_bankTimers {s : State}
    (h : ∀ n : Fin 32, s.entries[n].qual.expiring = false ∧ s.entries[n].shape.expiring = false) :
    nextExpiry (bankTimers s) = nextExpiry s := by
  refine nextExpiry_congr (fun n => ?_) (fun n => ?_) <;> rw [WatchTable.bankTimers_entry]
  · exact congrArg (· || _) (timer_tick_expired (h n).1)
  · exact congrArg (· || _) (timer_tick_expired (h n).2)

theorem chooseWork_bankTimers {s : State}
    (h : ∀ n : Fin 32, s.entries[n].qual.expiring = false ∧ s.entries[n].shape.expiring = false) :
    chooseWork (bankTimers s) = bankTimers (chooseWork s) := by
  have hframe := chooseWork_frame s
  rw [(sameChannels_bankTimers s).chooseWork (bankTimers_engine s) (bankTimers_pointer s) (bankTimers_workItem s)
    (nextExpiry_bankTimers h)]
  generalize chooseWork s = t at hframe ⊢
  rw [hframe]
  rfl

/-! ## The two orders of the timer bank and the channel unit -/

/-- An engine that is free by its law has nothing to take. -/
structure Idle (s : State) : Prop where
  claim : nextClaim s = none
  slots : ∀ c : Fin 16, s.channels[c].slot = none

theorem idle_of_engineLaw {s : State} (h : EngineLaw s) (hf : s.engine = .free) : Idle s := by
  obtain ⟨hclaims, htable, hslots⟩ := h.1 hf
  exact ⟨by rw [nextClaim, nextExpiry_eq_none.mpr hclaims, htable]; rfl, hslots⟩

theorem Idle.chooseWork {s : State} (h : Idle s) : Machine.chooseWork s = s :=
  chooseWork_nothing h.claim h.slots

theorem tickedChannels_engine (s : State) : (tickedChannels s).engine = s.engine := by
  have hs := tickTaken_frame (tickedChannels_taken s)
  generalize tickedChannels s = t at hs ⊢
  rw [hs]

theorem tickedChannels_entries (s : State) : (tickedChannels s).entries = s.entries := by
  have hs := tickTaken_frame (tickedChannels_taken s)
  generalize tickedChannels s = t at hs ⊢
  rw [hs]

theorem channelTicks_timerBank (s : State) : (channelTicks s).due.timerBank = s.due.timerBank := by
  rw [channelTicks_eq_choice, chooseWork_due]
  have hs := tickTaken_frame (tickedChannels_taken s)
  generalize tickedChannels s = t at hs ⊢
  rw [hs]

/-- Where no tick has reached the timer bank, its place in the order is nothing. -/
theorem bankTick_channelTicks_of_none {s : State} (h : s.due.timerBank = 0) :
    bankTick (channelTicks s) = channelTicks (bankTick s) := by
  rw [bankTick, if_pos ((channelTicks_timerBank s).trans h), bankTick, if_pos h]

/-- The two orders, where the tick has reached the timer bank. -/
theorem bankTick_channelTicks {s : State} (h : s.due.timerBank ≠ 0) :
    bankTick (channelTicks s) = chooseWork (bankTimers (chooseWork (tickedChannels s))) := by
  rw [bankTick, if_neg (by rwa [channelTicks_timerBank]), channelTicks_eq_choice]

theorem channelTicks_bankTick {s : State} (h : s.due.timerBank ≠ 0) :
    channelTicks (bankTick s) = chooseWork (tickedChannels (chooseWork (bankTimers s))) := by
  rw [bankTick, if_neg h, channelTicks_eq_choice]

/-- A busy engine chooses nothing, so the order is nothing. -/
theorem orders_agree_busy {s : State} (h : s.engine ≠ .free) : bankTick (channelTicks s) = channelTicks (bankTick s) := by
  by_cases h0 : s.due.timerBank = 0
  · exact bankTick_channelTicks_of_none h0
  · have hticked : (tickedChannels s).engine ≠ .free := by
      rw [tickedChannels_engine]
      exact h
    have hbank : (bankTimers s).engine ≠ .free := by
      rw [bankTimers_engine]
      exact h
    rw [bankTick_channelTicks h0, channelTicks_bankTick h0, chooseWork_busy hticked, chooseWork_busy hbank,
      tickedChannels_bankTimers]

/-- Where no timer of the timer bank comes to zero, the choice passes its tick. -/
theorem orders_agree_bank {s : State} (h : Idle s)
    (htimers : ∀ n : Fin 32, s.entries[n].qual.expiring = false ∧ s.entries[n].shape.expiring = false) :
    bankTick (channelTicks s) = channelTicks (bankTick s) := by
  by_cases h0 : s.due.timerBank = 0
  · exact bankTick_channelTicks_of_none h0
  · have hticked : ∀ n : Fin 32, (tickedChannels s).entries[n].qual.expiring = false
        ∧ (tickedChannels s).entries[n].shape.expiring = false := by rwa [tickedChannels_entries]
    calc bankTick (channelTicks s)
        = chooseWork (bankTimers (chooseWork (tickedChannels s))) := bankTick_channelTicks h0
      _ = chooseWork (tickedChannels (bankTimers s)) := by
        rw [← chooseWork_bankTimers hticked, chooseWork_chooseWork, tickedChannels_bankTimers]
      _ = chooseWork (tickedChannels (chooseWork (bankTimers s))) := by rw [chooseWork_bankTimers htimers, h.chooseWork]
      _ = channelTicks (bankTick s) := (channelTicks_bankTick h0).symm

section
variable {s : State} (hfresh : ∀ c : Fin 16, s.channels[c].fresh.expiring = false)
include hfresh

theorem not_expires (c : Fin 16) : expires c s = false := by
  rw [expires, hfresh, Bool.and_false]

theorem tickRecords_eq_nil : tickRecords s = [] :=
  List.flatMap_eq_nil_iff.mpr fun c _ => staleRecords_of_not_expires (not_expires hfresh c)

/-- A tick that brings no freshness timer to zero moves the counts and nothing else (R131). -/
theorem tickTaken_quiet {t : State} (ht : TickTaken (List.finRange 16) s t) :
    t = { s with channels := t.channels, due := { s.due with channels := t.due.channels } } := by
  have hfound : foundIn (List.finRange 16) s = s := by
    unfold foundIn
    split
    · rfl
    · next c _ => exact if_neg fun h => Bool.false_ne_true ((not_expires hfresh c).symm.trans h.2)
  have hrecords : (List.finRange 16).flatMap (fun c => staleRecords c s) = [] := tickRecords_eq_nil hfresh
  obtain ⟨hframe, -, -, hwaiting⟩ := ht
  rwa [hwaiting, hfound, hrecords, List.append_nil] at hframe

theorem nextClaim_tickedChannels_quiet : nextClaim (tickedChannels s) = nextClaim s := by
  have hs := tickTaken_quiet hfresh (tickedChannels_taken s)
  generalize tickedChannels s = t at hs ⊢
  rw [hs]
  rfl

theorem waiting_tickedChannels_quiet : (tickedChannels s).waiting = s.waiting := by
  have hs := tickTaken_quiet hfresh (tickedChannels_taken s)
  generalize tickedChannels s = t at hs ⊢
  rw [hs]

/-- It passes the taking of a claim. -/
theorem tickedChannels_takeClaim_quiet (k : Claim) : tickedChannels (takeClaim k s) = takeClaim k (tickedChannels s) := by
  have hnone : tickRecords (takeClaim k s) = [] := tickRecords_eq_nil (s := takeClaim k s) hfresh
  rw [tickedChannels_takeClaim, hnone, List.append_nil, ← waiting_tickedChannels_quiet hfresh]
  rfl

end

theorem tickedChannel_slot_of_not_expires {c : Fin 16} {s : State} (h : expires c s = false) :
    (tickedChannels s).channels[c].slot = s.channels[c].slot := by
  rw [(tickedChannels_taken s).channels, if_pos (List.mem_finRange c), tickedChannel]
  split
  · rfl
  · next h0 =>
    rw [expires, bne_iff_ne.mpr h0, Bool.true_and] at h
    rw [h, if_neg Bool.false_ne_true]

/-- Where no freshness timer comes to zero, the channel unit's tick passes the choice. -/
theorem orders_agree_channels {s : State} (h : Idle s) (hfresh : ∀ c : Fin 16, s.channels[c].fresh.expiring = false) :
    bankTick (channelTicks s) = channelTicks (bankTick s) := by
  by_cases h0 : s.due.timerBank = 0
  · exact bankTick_channelTicks_of_none h0
  · have hticked : Idle (tickedChannels s) := ⟨(nextClaim_tickedChannels_quiet hfresh).trans h.claim,
      fun c => (tickedChannel_slot_of_not_expires (not_expires hfresh c)).trans (h.slots c)⟩
    have hbank : ∀ c : Fin 16, (bankTimers s).channels[c].fresh.expiring = false := by
      rwa [WatchTable.bankTimers_channels]
    have hslots : ∀ c : Fin 16, (bankTimers s).channels[c].slot = none := by
      rw [WatchTable.bankTimers_channels]
      exact h.slots
    rw [bankTick_channelTicks h0, channelTicks_bankTick h0, hticked.chooseWork, ← tickedChannels_bankTimers]
    rcases chooseWork_of_slots_empty hslots with e | ⟨k, hf, hk, e⟩ <;> rw [e]
    rw [chooseWork_claim ((tickedChannels_engine _).trans hf) ((nextClaim_tickedChannels_quiet hbank).trans hk),
      tickedChannels_takeClaim_quiet hbank]
    exact (chooseWork_busy (takeClaim_busy k _)).symm

/-! ## Without what the choice decides -/

/-- No command waits for a channel whose slot holds an item. -/
def SlotsTaken (s : State) : Prop :=
  ∀ c : Fin 16, s.channels[c].slot ≠ none → takeChannelCommand c s = s

/-- What a choice decides is the slot, the pointer, the engine's place and the number of its work item, where it finds no
command. -/
theorem unchosen_chooseWork {s : State} (h : SlotsTaken s) : unchosen (chooseWork s) = unchosen s := by
  rcases chooseWork_cases s with ⟨-, e⟩ | ⟨-, -, -, e⟩ | ⟨c, -, -, e⟩ | ⟨c, item, -, -, -, hs, e⟩ <;> rw [e]
  · rfl
  · have hchannels : (s.channels.set c { s.channels[c] with slot := none }).map (fun ch => { ch with slot := none }) =
        s.channels.map fun ch => { ch with slot := none } := table_ext fun d => by
      by_cases hd : d = c
      · subst hd
        simp
      · simp [get_set_ne _ _ hd]
    rw [takeItem, h c (by rw [hs]; nofun), unchosen, unchosen]
    dsimp only [modChannel]
    rw [hchannels]

theorem unchosen_bankTimers (s : State) : unchosen (bankTimers s) = bankTimers (unchosen s) := by
  rw [bankTimers, bankTimers, unchosen, unchosen]

/-- Behind the channel unit's tick a slot that was empty holds an item only where the freshness has expired, and there the
command has been taken. -/
theorem slotsTaken_tickedChannels {s : State} (h : ∀ c : Fin 16, s.channels[c].slot = none) :
    SlotsTaken (tickedChannels s) := by
  intro c hslot
  have hx : expires c s = true := by
    by_contra hno
    exact hslot ((tickedChannel_slot_of_not_expires (Bool.eq_false_iff.mpr hno)).trans (h c))
  have hcmd : (tickedChannels s).cmd = (foundIn (List.finRange 16) s).cmd := tickTaken_cmd (tickedChannels_taken s)
  have harg : channelArg (tickedChannels s) = channelArg (foundIn (List.finRange 16) s) := by
    rw [channelArg, hcmd, channelArg]
  unfold foundIn at hcmd harg
  cases ha : channelArg s with
  | none =>
    rw [ha] at harg
    exact takeChannelCommand_unnamed (by rw [harg, ha]; nofun)
  | some d =>
    rw [ha] at hcmd harg
    by_cases hd : d = c
    · subst hd
      exact takeChannelCommand_again (hcmd.trans (by dsimp only; rw [if_pos ⟨List.mem_finRange d, hx⟩]))
    · refine takeChannelCommand_unnamed ?_
      have hsame : channelArg (tickedChannels s) = some d := by
        rw [harg]
        dsimp only
        split
        · rw [channelArg_takeChannelCommand, ha]
        · exact ha
      rw [hsame]
      exact fun e => hd (Option.some.inj e)

theorem slotsTaken_bankTimers {s : State} (h : SlotsTaken s) : SlotsTaken (bankTimers s) := by
  intro c hslot
  rw [WatchTable.bankTimers_channels] at hslot
  rw [(sameChannels_bankTimers s).takeChannelCommand, h c hslot, bankTimers]

/-- The timer bank's tick behind a choice. -/
theorem unchosen_bankTimers_chooseWork {s : State} (h : SlotsTaken s) :
    unchosen (chooseWork (bankTimers (chooseWork s))) = unchosen (bankTimers s) := by
  by_cases hf : (chooseWork s).engine = .free
  · rw [chooseWork_of_free hf]
    exact unchosen_chooseWork (slotsTaken_bankTimers h)
  · have hbusy : (bankTimers (chooseWork s)).engine ≠ .free := by
      rw [bankTimers_engine]
      exact hf
    rw [chooseWork_busy hbusy, unchosen_bankTimers, unchosen_chooseWork h, unchosen_bankTimers]

theorem tickRecords_unnumbered {s x : State} (h : SameChannels s x) :
    (tickRecords x).map (fun w => { w with item := 0 }) = (tickRecords s).map (fun w => { w with item := 0 }) := by
  rw [tickRecords, tickRecords, List.map_flatMap, List.map_flatMap]
  refine List.flatMap_congr fun c _ => ?_
  have hcmd : (takeChannelCommand c x).channels = (takeChannelCommand c s).channels := by rw [h.takeChannelCommand]
  rw [staleRecords, staleRecords, hcmd, h.expires, channelRecordIf, channelRecordIf]
  split <;> rfl

/-- The channel unit's tick behind a choice that took a claim. -/
theorem unchosen_tickedChannels_takeClaim (k : Claim) (s : State) :
    unchosen (tickedChannels (takeClaim k s)) = unchosen (tickedChannels s) := by
  have hwaiting : (tickedChannels s).waiting = s.waiting ++ tickRecords s := (tickedChannels_taken s).waiting
  rw [tickedChannels_takeClaim, unchosen, unchosen, hwaiting, List.map_append, List.map_append,
    tickRecords_unnumbered (sameChannels_takeClaim k s)]
  rfl

/-- The two orders differ in nothing else. -/
theorem orders_agree_unchosen {s : State} (h : EngineLaw s) :
    unchosen (bankTick (channelTicks s)) = unchosen (channelTicks (bankTick s)) := by
  by_cases hf : s.engine = .free
  · by_cases h0 : s.due.timerBank = 0
    · rw [bankTick_channelTicks_of_none h0]
    · have hslots : ∀ c : Fin 16, (bankTimers s).channels[c].slot = none := by
        rw [WatchTable.bankTimers_channels]
        exact (idle_of_engineLaw h hf).slots
      have hticked : SlotsTaken (tickedChannels s) := slotsTaken_tickedChannels (idle_of_engineLaw h hf).slots
      rw [bankTick_channelTicks h0, channelTicks_bankTick h0,
        unchosen_bankTimers_chooseWork hticked, ← tickedChannels_bankTimers]
      rcases chooseWork_of_slots_empty hslots with e | ⟨k, -, -, e⟩ <;> rw [e]
      · exact (unchosen_chooseWork (slotsTaken_tickedChannels hslots)).symm
      · have hbusy : (tickedChannels (takeClaim k (bankTimers s))).engine ≠ .free := by
          rw [tickedChannels_engine]
          exact takeClaim_busy k _
        rw [chooseWork_busy hbusy, unchosen_tickedChannels_takeClaim]
  · rw [orders_agree_busy hf]

/-! ## The six orders -/

/-- The end of the interval and the tick of TIMESTAMP reach the timebase and the due ticks. -/
theorem stampTick_endInterval_frame (s : State) : stampTick (endInterval s) = { s with
    timebase := (stampTick (endInterval s)).timebase, due := (stampTick (endInterval s)).due } := by
  have hinterval : endInterval s = { s with timebase := (endInterval s).timebase, due := (endInterval s).due } := by
    unfold endInterval
    split <;> rfl
  rw [stampTick_eq]
  split
  · exact hinterval
  · rw [hinterval]
    rfl

/-- TIMESTAMP's place in the order is nothing: what is left is the order of the two others. -/
theorem orders_two {s : State} {xs : List TickExtent}
    (h : xs ∈ [[TickExtent.timestamp, .timerBank, .channelUnit], [.timestamp, .channelUnit, .timerBank],
      [.timerBank, .timestamp, .channelUnit], [.timerBank, .channelUnit, .timestamp],
      [.channelUnit, .timestamp, .timerBank], [.channelUnit, .timerBank, .timestamp]]) :
    runAll ((TickExtent.interval :: xs).map fun x => .tickBy x) s =
        some (channelTicks (bankTick (stampTick (endInterval s))))
      ∨ runAll ((TickExtent.interval :: xs).map fun x => .tickBy x) s =
        some (bankTick (channelTicks (stampTick (endInterval s)))) := by
  simp only [List.mem_cons, List.not_mem_nil, or_false] at h
  rcases h with rfl | rfl | rfl | rfl | rfl | rfl
  · exact .inl rfl
  · exact .inr rfl
  · exact .inl (congrArg (fun t => some (channelTicks t)) (stampTick_bankTick _))
  · exact .inl (congrArg some ((stampTick_channelTicks _).trans (congrArg channelTicks (stampTick_bankTick _))))
  · exact .inr (congrArg (fun t => some (bankTick t)) (stampTick_channelTicks _))
  · exact .inr (congrArg some ((stampTick_bankTick _).trans (congrArg bankTick (stampTick_channelTicks _))))

end Sys2Proof.TickOrder
end

section
/-! PROOFS. The tick (O51): the end of the interval, each owner's taking of the tick, and their order. -/

namespace Sys2Proof.Ticking

open Sys2Proof.Machine Sys2Proof.Safety Sys2Proof.Claims Sys2Proof.Choosing Sys2Proof.Ticks Sys2Proof.TickOrder

/-! ## The timer bank's tick -/

theorem timer_expiring_iff {t : Timer} (h : t ≠ .running 0) : t.expiring = true ↔ t = .running 1 := by
  cases t with
  | unloaded | expired => exact iff_of_false Bool.false_ne_true nofun
  | running x =>
    rw [Timer.expiring, decide_eq_true_iff, half_le_one_iff fun e => h (by rw [e]), Timer.running.injEq]

theorem timer_tick_eq {t : Timer} (h : t ≠ .running 0) : t.tick = ticked t := by
  cases t with
  | unloaded | expired => rfl
  | running x => exact if_congr (half_le_one_iff fun e => h (by rw [e])) rfl rfl

theorem bankTick_of_due {s : State} {k : Nat} (h : s.due.timerBank = k + 1) : bankTick s = chooseWork (bankTimers s) := by
  rw [bankTick, if_neg (by rw [h]; exact Nat.succ_ne_zero k)]

/-- The timer bank's part of O51. -/
theorem timerBank_takes_tick {s : State} {k : Nat} (hdue : s.due.timerBank = k + 1)
    (hpos : ∀ n : Fin 32, s.entries[n].qual ≠ .running 0 ∧ s.entries[n].shape ≠ .running 0) :
    bankTimers s = { s with entries := (bankTimers s).entries, due := { s.due with timerBank := k } }
      ∧ (∀ n : Fin 32, (bankTimers s).entries[n] =
          { s.entries[n] with qual := ticked s.entries[n].qual, shape := ticked s.entries[n].shape })
      ∧ ∀ n : Fin 32,
        (s.entries[n].qual = .running 1 → exec (.qualificationTimerExpiry n) s = .next (bankTick s))
          ∧ (s.entries[n].shape = .running 1 → exec (.shapingTimerExpiry n) s = .next (bankTick s)) := by
  refine ⟨?_, fun n => ?_, fun n => ⟨fun h => ?_, fun h => ?_⟩⟩
  · rw [bankTimers, hdue, Nat.add_sub_cancel]
  · rw [WatchTable.bankTimers_entry, Entry.tick, timer_tick_eq (hpos n).1, timer_tick_eq (hpos n).2]
  · rw [exec, execQualificationTimerExpiry, if_pos ((timer_expiring_iff (hpos n).1).mpr h)]
  · rw [exec, execShapingTimerExpiry, if_pos ((timer_expiring_iff (hpos n).2).mpr h)]

/-! ## The orders -/

/-- The orders' part of O51. -/
theorem owners_in_any_order {s : State} {xs : List TickExtent}
    (hxs : xs ∈ [[TickExtent.timestamp, .timerBank, .channelUnit], [.timestamp, .channelUnit, .timerBank],
      [.timerBank, .timestamp, .channelUnit], [.timerBank, .channelUnit, .timestamp],
      [.channelUnit, .timestamp, .timerBank], [.channelUnit, .timerBank, .timestamp]]) :
    (s.engine ≠ .free
        ∨ (EngineLaw s ∧ ((∀ n : Fin 32, s.entries[n].qual.expiring = false ∧ s.entries[n].shape.expiring = false)
          ∨ ∀ c : Fin 16, s.channels[c].fresh.expiring = false)) →
      runAll ((TickExtent.interval :: xs).map fun x => .tickBy x) s = runAll [.tick] s)
      ∧ (EngineLaw s → (runAll ((TickExtent.interval :: xs).map fun x => .tickBy x) s).map unchosen =
          (runAll [.tick] s).map unchosen) := by
  have hwhole : runAll [.tick] s = some (channelTicks (bankTick (stampTick (endInterval s)))) := rfl
  have hframe := stampTick_endInterval_frame s
  rw [hwhole]
  rcases orders_two (s := s) hxs with e | e <;> rw [e]
  · exact ⟨fun _ => rfl, fun _ => rfl⟩
  generalize stampTick (endInterval s) = v at hframe ⊢
  have hengine : v.engine = s.engine := by rw [hframe]
  have hentries : v.entries = s.entries := by rw [hframe]
  have hchannels : v.channels = s.channels := by rw [hframe]
  have hlaw (h : EngineLaw s) : EngineLaw v := by
    rw [hframe]
    exact h
  refine ⟨fun h => congrArg some ?_, fun h => congrArg some (orders_agree_unchosen (hlaw h))⟩
  by_cases hf : v.engine = .free
  · obtain ⟨h, htimers⟩ := h.resolve_left (not_not.mpr (hengine ▸ hf))
    have hidle : Idle v := idle_of_engineLaw (hlaw h) hf
    rcases htimers with htimers | hfresh
    · exact orders_agree_bank hidle (by rw [hentries]; exact htimers)
    · exact orders_agree_channels hidle (by rw [hchannels]; exact hfresh)
  · exact orders_agree_busy hf

/-- Settles O51: what each owner makes of a tick; TIMESTAMP's taking passes the two others, and theirs pass each other but
for what a free engine chooses between them. -/
theorem tickCountsDownAndExpiryRaisesTheClaim : Obligations.TickCountsDownAndExpiryRaisesTheClaim := by
  refine ⟨fun s hr => ?_, fun s k hdue => ?_, fun s k hdue hpos => ?_, fun s u hpos hnamed hnone => ?_,
    fun s xs hxs => owners_in_any_order hxs⟩
  · refine ⟨mapVec (· + 1) s.due.channels, get_mapVec _ _, ?_⟩
    rw [exec, execTickBy, endInterval, hr]
    rfl
  · rw [exec, execTickBy, stampTick, hdue]
    rfl
  · obtain ⟨hframe, hentries, hrows⟩ := timerBank_takes_tick hdue hpos
    exact ⟨bankTimers s, bankTick s, rfl, bankTick_of_due hdue, hframe, hentries, hrows⟩
  · obtain ⟨hframe, hchannels⟩ := channelUnit_takes_tick hpos (found_eq hpos hnamed hnone)
    exact ⟨tickedChannels s, by rw [exec, execTickBy, channelTicks_eq_choice], hframe, hchannels⟩

end Sys2Proof.Ticking
end

section
/-! PROOFS. Events that leave the event queue alone: those of every other block, as state functions and then as
commands. -/

namespace Sys2Proof.QueueFrames

open Sys2Proof.Machine

/-! ## The output unit, the channel unit, the port -/

@[simp] theorem takeLineCommand_queue (s : State) : (takeLineCommand s).queue = s.queue := by
  rw [takeLineCommand_work s]

@[simp] theorem takeChannelCommand_queue (c : Fin 16) (s : State) : (takeChannelCommand c s).queue = s.queue := by
  rw [takeChannelCommand_event c s]

@[simp] theorem takePortCommand_queue (s : State) : (takePortCommand s).queue = s.queue := by
  rcases takePortCommand_cases s with ⟨-, h⟩ | ⟨-, h⟩ <;> rw [h]
  rfl

@[simp] theorem endService_queue (r : Result) (s : State) : (endService r s).queue = s.queue := by
  rw [endService, comeFree_queue, complete_queue]

@[simp] theorem requestIf_queue (b : Bool) (f : Flag) (s : State) : (requestIf b f s).queue = s.queue := by
  rw [requestIf_eq]

@[simp] theorem updateWant_queue (loose : Bool) (l : Fin 16) (s : State) : (updateWant loose l s).queue = s.queue := by
  rw [updateWant_frame loose l s]

@[simp] theorem takeOver_queue (l : Fin 16) (s : State) : (takeOver l s).queue = s.queue := by
  rw [takeOver_frame l s]

@[simp] theorem storeLine_queue (l : Fin 16) (p : LineProposal) (s : State) : (storeLine l p s).queue = s.queue := by
  unfold storeLine
  dsimp only
  split <;> simp

@[simp] theorem serveReadLine_queue (s : State) : (serveReadLine s).queue = s.queue := by
  unfold serveReadLine
  split <;> simp

@[simp] theorem serveWriteLine_queue (s : State) : (serveWriteLine s).queue = s.queue := by
  unfold serveWriteLine
  dsimp only
  split
  · simp
  · split <;> simp

@[simp] theorem serveSilence_queue (s : State) : (serveSilence s).queue = s.queue := by
  unfold serveSilence
  split
  · simp
  · split <;> simp

@[simp] theorem serveOverride_queue (s : State) : (serveOverride s).queue = s.queue := by
  unfold serveOverride
  split
  · simp
  · split <;> simp

@[simp] theorem serveResume_queue (s : State) : (serveResume s).queue = s.queue := by
  unfold serveResume
  split <;> simp

@[simp] theorem serveReadChannel_queue (s : State) : (serveReadChannel s).queue = s.queue := by
  unfold serveReadChannel
  split <;> simp

@[simp] theorem serveWriteChannel_queue (s : State) : (serveWriteChannel s).queue = s.queue := by
  unfold serveWriteChannel
  split
  · simp
  split
  · simp
  · split <;> simp

@[simp] theorem takeArrival_queue (fromPort : Bool) (c : Fin 16) (raw : Half) (status : SampleStatus) (s : State) :
    (takeArrival fromPort c raw status s).2.queue = s.queue := by
  rw [takeArrival_event fromPort c raw status s]

@[simp] theorem channelTick_queue (c : Fin 16) (s : State) : (channelTick c s).queue = s.queue := by
  rw [channelTick_event c s]

@[simp] theorem settleTaken_queue (c : Fin 16) (item : Item) (s : State) : (settleTaken c item s).queue = s.queue := by
  have h : (settle c item (takeChannelCommand c s)).2.queue = (takeChannelCommand c s).queue := by rw [settle_work]
  exact h.trans (takeChannelCommand_queue c s)

@[simp] theorem assertShutoff_queue (s : State) : (assertShutoff s).queue = s.queue := by
  simp [assertShutoff]

@[simp] theorem endFrame_queue (s : State) : (endFrame s).queue = s.queue := by
  unfold endFrame
  split <;> simp [modPort]

@[simp] theorem takeOutcome_queue (o : ArrivalOutcome) (s : State) : (takeOutcome o s).queue = s.queue := by
  cases o <;> rfl

/-! ## Ticks -/

@[simp] theorem endInterval_queue (s : State) : (endInterval s).queue = s.queue := by
  unfold endInterval
  split <;> rfl

@[simp] theorem stampTick_queue (s : State) : (stampTick s).queue = s.queue := by
  unfold stampTick
  split <;> rfl

@[simp] theorem bankTick_queue (s : State) : (bankTick s).queue = s.queue := by
  rcases bankTick_cases s with ⟨-, h⟩ | ⟨-, h⟩ <;> rw [h]
  rw [chooseWork_queue, bankTimers_frame]

@[simp] theorem channelTicks_queue (s : State) : (channelTicks s).queue = s.queue := by
  obtain ⟨t, ht, h⟩ := channelTicks_eq s
  rw [h, chooseWork_queue]
  rw [ht]

@[simp] theorem tick_queue (s : State) : (tick s).queue = s.queue := by
  rw [tick, channelTicks_queue, bankTick_queue, stampTick_queue, endInterval_queue]

/-- A CLKIN period does not reach the queue (R156). -/
theorem clkin_queue (s : State) : (clkin s).queue = s.queue := by
  unfold clkin
  split
  · rfl
  · split <;> simp

/-! ## The engine -/

/-- Work on one entry hands records over and leaves the queue as it is. -/
theorem queue_of_entryWork {n : Fin 32} {s t : State} (h : EntryWork n s t) : t.queue = s.queue := by
  rw [h.1]

@[simp] theorem releaseEntry_queue (n : Fin 32) (s : State) : (releaseEntry n s).queue = s.queue :=
  queue_of_entryWork (releaseEntry_work n s)

@[simp] theorem withdraw_queue (n : Fin 32) (s : State) : (withdraw n s).queue = s.queue :=
  queue_of_entryWork (withdraw_work n s)

@[simp] theorem handleEntry_queue (n : Fin 32) (input : EvalInput) (s : State) : (handleEntry n input s).queue = s.queue :=
  queue_of_entryWork (handleEntry_work n input s)

@[simp] theorem serveQualification_queue (n : Fin 32) (s : State) : (serveQualification n s).queue = s.queue := by
  unfold serveQualification
  split
  · rfl
  · split
    · exact queue_of_entryWork (qualificationExpiry_work n s)
    · rfl

@[simp] theorem serveShaping_queue (n : Fin 32) (s : State) : (serveShaping n s).queue = s.queue := by
  unfold serveShaping
  split
  · rfl
  · split
    · exact queue_of_entryWork (shapingExpiry_work n s)
    · rfl

@[simp] theorem handleQualification_queue (n : Fin 32) (s : State) : (handleQualification n s).queue = s.queue := by
  unfold handleQualification
  dsimp only
  split <;> simp

@[simp] theorem evaluationStep_queue (s : State) : (evaluationStep s).queue = s.queue := by
  unfold evaluationStep
  split
  · simp
  · split <;> simp
  all_goals rfl

@[simp] theorem evaluationRest_queue (fuel : Nat) (s : State) : (evaluationRest fuel s).queue = s.queue := by
  induction fuel generalizing s with
  | zero => rfl
  | succ fuel ih =>
    unfold evaluationRest
    split
    · rw [ih, evaluationStep_queue]
    all_goals rfl

@[simp] theorem evaluationFinish_queue (s : State) : (evaluationFinish s).queue = s.queue := by
  unfold evaluationFinish
  split <;> simp

@[simp] theorem releaseAllFrom_queue (k count : Nat) (s : State) : (releaseAllFrom k count s).queue = s.queue := by
  unfold releaseAllFrom
  split <;> simp

@[simp] theorem releaseAllStep_queue (s : State) : (releaseAllStep s).queue = s.queue := by
  unfold releaseAllStep
  split
  · split <;> simp
  · simp
  all_goals rfl

@[simp] theorem releaseAllRest_queue (fuel : Nat) (s : State) : (releaseAllRest fuel s).queue = s.queue := by
  induction fuel generalizing s with
  | zero => rfl
  | succ fuel ih =>
    unfold releaseAllRest
    split
    · rw [ih, releaseAllStep_queue]
    all_goals rfl

/-! ## Host cycles -/

/-- A write cycle whose effect leaves the queue alone. -/
theorem hostWrite_queue {f : State → State} (hf : ∀ u : State, (f u).queue = u.queue) (s : State) :
    (hostWrite f s).queue = s.queue := by
  rw [hostWrite_eq]
  split
  · rfl
  · exact hf _

/-- A read cycle that loads no latch of the queue. -/
theorem hostRead_queue {f : State → State} (hf : ∀ u : State, (f u).queue = u.queue) (b : Byte) (s : State) :
    (hostRead b f s).queue = s.queue := by
  rw [hostRead_eq]
  split
  · rfl
  · exact hf s

theorem writeControl_queue (v : Byte) (s : State) : (writeControl v s).queue = s.queue := by
  have hoe (b : Bool) : (writeOe b s).queue = s.queue := by
    unfold writeOe
    split <;> simp
  have hport (b : Bool) (u : State) : (writePortEnable b u).queue = u.queue := by
    unfold writePortEnable
    split <;> simp [modPort]
  rw [writeControl, hport, hoe]

theorem writeCmdOp_queue (op : Byte) (s : State) : (writeCmdOp op s).queue = s.queue := by
  have hhand (c : Command) (u : State) : (handToOwner c u).queue = u.queue := by
    unfold handToOwner
    split
    · simp
    · split <;> rfl
  unfold writeCmdOp
  split
  · rfl
  · split
    · exact hhand _ _
    · rfl

theorem writeInjTag_queue (v : Byte) (s : State) : (writeInjTag v s).queue = s.queue := by
  rw [writeInjTag, chooseWork_queue]
  exact takeArrival_queue _ _ _ _ s

theorem writeStaging_queue (k : Fin 32) (v : Byte) (s : State) : (writeStaging k v s).queue = s.queue := by
  unfold writeStaging
  dsimp only
  split <;> rfl

/-! ## Commands -/

/-- An outcome that, where it is a next state, has the queue of `s`. -/
def KeepsQueue (s : State) (o : Host.Outcome State Fault Refusal) : Prop :=
  ∀ t : State, o = .next t → t.queue = s.queue

@[simp] theorem keepsQueue_next {s t : State} : KeepsQueue s (.next t) ↔ t.queue = s.queue := by
  simp [KeepsQueue]

/-- A command that is served where it waits, and does nothing where it does not. -/
theorem keepsQueue_ite {s t : State} {b : Bool} (h : t.queue = s.queue) : KeepsQueue s (.next (if b then t else s)) := by
  cases b
  · exact keepsQueue_next.mpr rfl
  · exact keepsQueue_next.mpr h

theorem keepsQueue_hostWrite {f : State → State} {s : State} (hf : ∀ u : State, (f u).queue = u.queue) :
    KeepsQueue s (.next (hostWrite f s)) :=
  keepsQueue_next.mpr (hostWrite_queue hf s)

theorem keepsQueue_hostRead {f : State → State} {b : Byte} {s : State} (hf : ∀ u : State, (f u).queue = u.queue) :
    KeepsQueue s (.next (hostRead b f s)) :=
  keepsQueue_next.mpr (hostRead_queue hf b s)

section
variable (s : State)

theorem execReadEntry_queue : KeepsQueue s (execReadEntry s) := by
  unfold execReadEntry
  split
  · split <;> simp
  · simp

theorem execWriteEntry_queue : KeepsQueue s (execWriteEntry s) := by
  unfold execWriteEntry
  split
  · split
    · simp
    split
    · simp
    · split <;> simp
  · simp

theorem execArm_queue : KeepsQueue s (execArm s) := by
  unfold execArm
  split
  · split
    · simp
    dsimp only
    split
    · simp
    · split <;> simp
  · simp

theorem execDisarm_queue : KeepsQueue s (execDisarm s) := by
  unfold execDisarm
  split
  · split
    · simp
    · split <;> simp
  · simp

theorem execRelease_queue : KeepsQueue s (execRelease s) := by
  unfold execRelease
  split
  · split
    · simp
    · split <;> simp
  · simp

theorem execReleaseAll_queue (x : Extent) : KeepsQueue s (execReleaseAll x s) := by
  cases x <;> simp [execReleaseAll]

theorem execEnable_queue : KeepsQueue s (execEnable s) := by
  unfold execEnable
  split
  · split
    · simp
    · split <;> simp
  · simp

theorem execDisable_queue : KeepsQueue s (execDisable s) := by
  unfold execDisable
  split
  · split
    · simp
    split
    · simp
    · split <;> simp
  · simp

theorem execEvaluation_queue (x : Extent) : KeepsQueue s (execEvaluation x s) := by
  cases x <;> simp [execEvaluation]

theorem execQualificationExpiryTaken_queue : KeepsQueue s (execQualificationExpiryTaken s) := by
  unfold execQualificationExpiryTaken
  split <;> simp

theorem execShapingExpiryTaken_queue : KeepsQueue s (execShapingExpiryTaken s) := by
  unfold execShapingExpiryTaken
  split <;> simp

theorem execTickBy_queue (x : TickExtent) : KeepsQueue s (execTickBy x s) := by
  cases x <;> simp [execTickBy]

theorem execReadAcc_queue : KeepsQueue s (execReadAcc s) := by
  unfold execReadAcc
  split
  · simp
  · next h =>
    obtain ⟨-, rest, -, rfl⟩ := takeAccCommand_eq_some.mp h
    split <;> simp

theorem execWriteAcc_queue : KeepsQueue s (execWriteAcc s) := by
  unfold execWriteAcc
  split
  · simp
  · next h =>
    obtain ⟨-, rest, -, rfl⟩ := takeAccCommand_eq_some.mp h
    split <;> simp

theorem execCaptureStep_queue : KeepsQueue s (execCaptureStep s) := by
  unfold execCaptureStep
  split <;> simp [applyCapture]

theorem execArrival_queue : KeepsQueue s (execArrival s) := by
  unfold execArrival
  split <;> simp

theorem execArrivalOutcome_queue : KeepsQueue s (execArrivalOutcome s) := by
  unfold execArrivalOutcome
  split <;> simp [modPort]

theorem execFrameStart_queue : KeepsQueue s (execFrameStart s) := by
  unfold execFrameStart
  split
  · simp
  · split <;> simp [modPort]

theorem execFrameEnd_queue : KeepsQueue s (execFrameEnd s) := by
  unfold execFrameEnd
  split
  · simp
  · split <;> simp

theorem execShutoffAssert_queue : KeepsQueue s (execShutoffAssert s) := by
  unfold execShutoffAssert
  split
  · simp
  · split <;> simp

end

end Sys2Proof.QueueFrames
end

section
/-! PROOFS. What a command can do to the event queue, said once (`exec_queueEvent`): nothing; a watermark or a latch is
stored; POP, FLUSH or power-on reset removes records; a submission is taken; or RESTART empties the queue and admits its
own record. From it follow how the head leaves (O15) and that no record is altered (O16). -/

namespace Sys2Proof.QueueEvents

open Sys2Proof.Machine Sys2Proof.Claims Sys2Proof.QueueFrames

/-! ## A submission taken -/

/-- What becomes of queue `q` when it takes record `b` at time `now` (R66, R68, R69, Table 4-4). -/
inductive Takes (b : RecordBody) (now : Word) (q : EventQueue) : EventQueue → Prop
  | admitted (hroom : q.records.length < 64) : Takes b now q (q.append b now)
  | evicted {head victim : Record} {older younger : List Record}
      (hq : q.records = head :: (older ++ victim :: younger)) (hfull : 64 ≤ q.records.length)
      (hlt : victim.body.severity < b.severity) :
      Takes b now q (EventQueue.append
        { q with records := head :: (older ++ younger), marks := q.marks.put victim.body.kind true } b now)
  | dropped (hfull : 64 ≤ q.records.length) : Takes b now q { q with marks := q.marks.put b.kind true }

@[simp] theorem admitWithRoom_queue (b : RecordBody) (s : State) :
    (admitWithRoom b s).queue = s.queue.append b s.timebase.timestamp := by
  simp [admitWithRoom, requestSevere]

@[simp] theorem admitByEviction_queue (b : RecordBody) (victim : Record) (rest : List Record) (s : State) :
    (admitByEviction b victim rest s).queue = EventQueue.append
      { s.queue with records := rest, marks := s.queue.marks.put victim.body.kind true } b s.timebase.timestamp := by
  simp [admitByEviction, requestSevere]

theorem takeRecord_takes (b : RecordBody) (s : State) :
    Takes b s.timebase.timestamp s.queue (takeRecord b s).queue := by
  rcases takeRecord_cases b s with ⟨hroom, h⟩ | ⟨_, _, _, _, hq, hfull, hlt, -, h⟩ | ⟨hfull, -, h⟩ <;> rw [h]
  · rw [admitWithRoom_queue]
    exact .admitted hroom
  · rw [admitByEviction_queue]
    exact .evicted hq hfull hlt
  · exact .dropped hfull

section
variable {b : RecordBody} {now : Word} {q q' : EventQueue}

theorem Takes.watermark (h : Takes b now q q') : q'.watermark = q.watermark := by
  cases h <;> rfl

/-- An empty queue has room. -/
theorem Takes.of_empty (h : Takes b now q q') (hq : q.records = []) : q' = q.append b now := by
  cases h with
  | admitted => rfl
  | evicted he => rw [hq] at he; cases he
  | dropped hfull => rw [hq] at hfull; exact absurd hfull (by decide)

/-- The head of a queue stays when the queue takes a submission (R68, R70). -/
theorem Takes.head {r : Record} {rest : List Record} (h : Takes b now q q') (hq : q.records = r :: rest) :
    q'.records.head? = some r := by
  cases h with
  | admitted => simp [EventQueue.append, hq]
  | evicted he => simp_all [EventQueue.append]
  | dropped => simp [hq]

/-- What is kept keeps its order, and at most the new record is added, at the tail. -/
theorem Takes.kept (h : Takes b now q q') : ∃ kept : List Record, kept.Sublist q.records
    ∧ ((q'.records = kept ∧ q'.nextSeq = q.nextSeq)
      ∨ ∃ r : Record, q'.records = kept ++ [r] ∧ r.seq = q.nextSeq ∧ q'.nextSeq = q.nextSeq + 1
          ∧ r.timestamp = now) := by
  cases h with
  | admitted => exact ⟨q.records, List.Sublist.refl _, .inr ⟨_, rfl, rfl, rfl, rfl⟩⟩
  | @evicted head victim older younger hq =>
    refine ⟨head :: (older ++ younger), ?_, .inr ⟨_, rfl, rfl, rfl, rfl⟩⟩
    rw [hq]
    exact ((List.sublist_cons_self victim younger).append_left older).cons_cons head
  | dropped => exact ⟨q.records, List.Sublist.refl _, .inl ⟨rfl, rfl⟩⟩

end

/-! ## RESTART -/

/-- The submissions RESTART takes first change no watermark (R65, R77). -/
theorem takeWaiting_watermark (s : State) : (takeWaiting s).queue.watermark = s.queue.watermark := by
  have fold : ∀ (ws : List Waiting) (u : State),
      (ws.foldl (fun u w => takeRecord w.body u) u).queue.watermark = u.queue.watermark := by
    intro ws
    induction ws with
    | nil => exact fun _ => rfl
    | cons w ws ih => exact fun u => (ih _).trans (takeRecord_takes w.body u).watermark
  exact fold s.waiting { s with waiting := [] }

/-- The queue's part of RESTART leaves the RESTART record alone in the queue, under the watermark of before (R80). -/
theorem restartQueue_queue (s : State) : ∃ q : EventQueue, q.watermark = s.queue.watermark
    ∧ (restartQueue s).queue = q.emptied.append restartRecord s.timebase.timestamp := by
  refine ⟨(takeWaiting s).queue, takeWaiting_watermark s, ?_⟩
  have htime : (takeWaiting s).timebase = s.timebase := by
    obtain ⟨_, _, h⟩ := takeWaiting_frame s
    rw [h]
  have h := (takeRecord_takes restartRecord { takeWaiting s with queue := (takeWaiting s).queue.emptied }).of_empty rfl
  rw [← htime]
  exact h

/-- A part of RESTART other than the queue's reaches neither the queue nor TIMESTAMP. -/
theorem restartPart_other {p : RestartPart} (hp : p ≠ .queue) (s : State) :
    (restartPart p s).queue = s.queue ∧ (restartPart p s).timebase = s.timebase := by
  rcases restartPart_cases p s with h | ⟨-, -, -, h⟩ | ⟨_, _, _, _, _, -, ⟨-, -, h⟩ | ⟨-, -, h⟩ | ⟨-, -, h⟩
    | ⟨-, -, -, -, -, h⟩ | ⟨hq, -⟩ | ⟨-, -, -, -, -, -, h⟩⟩
  · exact ⟨by rw [h], by rw [h]⟩
  · exact ⟨by rw [h, restartEngine], by rw [h, restartEngine]⟩
  · exact ⟨by rw [h, restartOutputs], by rw [h, restartOutputs]⟩
  · exact ⟨by rw [h, restartChannels], by rw [h, restartChannels]⟩
  · exact ⟨by rw [h, modPort], by rw [h, modPort]⟩
  · exact ⟨by rw [h, restartInterrupts], by rw [h, restartInterrupts]⟩
  · exact absurd hq hp
  · rw [h]
    exact ⟨endService_queue _ _, by rw [endService, comeFree_timebase, complete_timebase]⟩

/-- The queue's part leaves the queue as it is where it is not its turn. -/
theorem restartPart_queue (s : State) : (restartPart .queue s).queue = s.queue ∨ ∃ q : EventQueue,
    q.watermark = s.queue.watermark
      ∧ (restartPart .queue s).queue = q.emptied.append restartRecord s.timebase.timestamp := by
  rcases restartPart_cases .queue s with h | ⟨hp, -⟩ | ⟨_, _, _, _, _, -, ⟨hp, -⟩ | ⟨hp, -⟩ | ⟨hp, -⟩ | ⟨hp, -⟩
    | ⟨-, -, -, -, -, -, h⟩ | ⟨hp, -⟩⟩
  · exact .inl (by rw [h])
  case inr.inr.inr.inr.inr.inr.inl =>
    rw [h]
    exact .inr (restartQueue_queue s)
  all_goals cases hp

/-- Parts of RESTART without the queue's reach neither the queue nor TIMESTAMP. -/
theorem restartParts_other {ps : List RestartPart} (hps : .queue ∉ ps) (s : State) :
    (ps.foldl (fun s p => restartPart p s) s).queue = s.queue
      ∧ (ps.foldl (fun s p => restartPart p s) s).timebase = s.timebase := by
  induction ps generalizing s with
  | nil => exact ⟨rfl, rfl⟩
  | cons p ps ih =>
    rw [List.mem_cons, not_or] at hps
    obtain ⟨hp, hrest⟩ := hps
    obtain ⟨hqueue, htime⟩ := restartPart_other (Ne.symm hp) s
    obtain ⟨hqueue', htime'⟩ := ih hrest (restartPart p s)
    exact ⟨hqueue'.trans hqueue, htime'.trans htime⟩

/-- What RESTART can do to the queue, whole or by one part (R80, R172). -/
theorem execRestart_queue {x : RestartExtent} {s t : State} (h : execRestart x s = .next t) :
    t.queue = s.queue ∨ ∃ q : EventQueue,
      q.watermark = s.queue.watermark ∧ t.queue = q.emptied.append restartRecord s.timebase.timestamp := by
  cases x with
  | part p =>
    cases h
    by_cases hp : p = .queue
    · exact hp ▸ restartPart_queue s
    · exact .inl (restartPart_other hp s).1
  | finish =>
    cases h
    obtain ⟨u, hall, hqueue, htime⟩ : ∃ u : State, restartAll s = restartPart .completion (restartPart .queue u)
        ∧ u.queue = s.queue ∧ u.timebase = s.timebase :=
      ⟨_, rfl, restartParts_other (ps := [.engine, .output, .channel, .port, .interrupt]) (by decide) s⟩
    rw [hall, (restartPart_other (by decide) (restartPart .queue u)).1, ← hqueue, ← htime]
    exact restartPart_queue u

/-! ## A command -/

/-- What command `c` can make of the queue of `s`. -/
inductive QueueEvent (s : State) : Instr → EventQueue → Prop
  /-- The records stay, and so does all else of the queue but a watermark or the latch that is stored; of a POP only
  where there is none to serve, or no record. -/
  | kept {c : Instr} (w : Byte) (hw : w = s.queue.watermark ∨ ∃ v : Byte, w = clipWatermark v)
      (latch : Vector Byte 12) (hpop : c = .pop → Waits .pop s → s.queue.records = []) :
      QueueEvent s c { s.queue with watermark := w, headLatch := latch }
  | popped {r : Record} {rest : List Record} (hwaits : Waits .pop s) (hq : s.queue.records = r :: rest) :
      QueueEvent s .pop { s.queue with records := rest }
  | flushed : QueueEvent s .flush s.queue.emptied
  | reset : QueueEvent s .powerOnReset EventQueue.powerOn
  | taken {who : Submitter} {b : RecordBody} {q : EventQueue} (h : Takes b s.timebase.timestamp s.queue q) :
      QueueEvent s (.recordSubmission who) q
  | restarted {x : RestartExtent} {q : EventQueue} (hw : q.watermark = s.queue.watermark) :
      QueueEvent s (.restart x) (q.emptied.append restartRecord s.timebase.timestamp)

/-- An event that leaves the queue as it is. -/
theorem QueueEvent.of_eq {s : State} {c : Instr} {q : EventQueue} (h : q = s.queue)
    (hpop : c = .pop → Waits .pop s → s.queue.records = []) : QueueEvent s c q := by
  rw [h]
  exact .kept s.queue.watermark (.inl rfl) s.queue.headLatch hpop

/-- What a write of WATERMARK makes of the queue (R77). -/
theorem writeWatermark_queue (v : Byte) (s : State) :
    (writeWatermark v s).queue = { s.queue with watermark := clipWatermark v } := by
  rw [writeWatermark, requestIf_queue]

/-- A window write reaches the queue at WATERMARK only (R163). -/
theorem writeWindow_queue (a : Address) (v : Byte) (s : State) :
    (writeWindow a v s).queue = s.queue ∨ (writeWindow a v s).queue = { s.queue with watermark := clipWatermark v } := by
  unfold writeWindow
  split
  · exact .inl (writeStaging_queue _ v s)
  split
  · exact .inl (writeControl_queue v s)
  · exact .inl rfl
  · exact .inl rfl
  · exact .inl (writeCmdOp_queue v s)
  · exact .inl rfl
  · exact .inl rfl
  · exact .inr (writeWatermark_queue v s)
  · exact .inl rfl
  · exact .inl rfl
  · exact .inl (writeInjTag_queue v s)
  all_goals exact .inl rfl

section
variable {s t : State}

theorem execPop_event (h : execPop s = .next t) : QueueEvent s .pop t.queue := by
  unfold execPop at h
  split at h
  · next hr =>
    split at h
    · next hq => cases h; exact .of_eq (complete_queue _ _) fun _ _ => hq
    · next hq => cases h; exact .popped (ready_iff.mp hr) hq
  · next hr => cases h; exact .of_eq rfl fun _ hw => absurd (ready_iff.mpr hw) hr

theorem execFlush_event (h : execFlush s = .next t) : QueueEvent s .flush t.queue := by
  unfold execFlush at h
  split at h
  · cases h; exact .flushed
  · cases h; exact .of_eq rfl nofun

theorem execRecordSubmission_event {who : Submitter} (h : execRecordSubmission who s = .next t) :
    QueueEvent s (.recordSubmission who) t.queue := by
  unfold execRecordSubmission at h
  split at h
  · next w _ =>
    cases h
    exact .taken (takeRecord_takes w.body { s with waiting := s.waiting.eraseP fun w => w.submitter == who })
  · cases h; exact .of_eq rfl nofun

theorem execRestart_event {x : RestartExtent} (h : execRestart x s = .next t) : QueueEvent s (.restart x) t.queue := by
  rcases execRestart_queue h with hq | ⟨q, hw, hq⟩
  · exact .of_eq hq nofun
  · rw [hq]
    exact .restarted hw

theorem execHeadLatchLoad_event (h : execHeadLatchLoad s = .next t) : QueueEvent s .headLatchLoad t.queue := by
  cases h
  rw [hostRead_eq]
  split
  · exact .of_eq rfl nofun
  · exact .kept s.queue.watermark (.inl rfl) (headImage s) nofun

theorem execWatermarkWrite_event {v : Byte} (h : execWatermarkWrite v s = .next t) :
    QueueEvent s (.watermarkWrite v) t.queue := by
  cases h
  rw [hostWrite_eq]
  split
  · exact .of_eq rfl nofun
  · rw [writeWatermark_queue]
    exact .kept _ (.inr ⟨v, rfl⟩) s.queue.headLatch nofun

theorem execRegisterWrite_event {a : Address} {v : Byte} (h : execRegisterWrite a v s = .next t) :
    QueueEvent s (.registerWrite a v) t.queue := by
  cases h
  rw [hostWrite_eq]
  split
  · exact .of_eq rfl nofun
  · rcases writeWindow_queue a v { s with dataOut := none } with hq | hq <;> rw [hq]
    · exact .of_eq rfl nofun
    · exact .kept _ (.inr ⟨v, rfl⟩) s.queue.headLatch nofun

/-- The rows that do not reach the queue at all. -/
theorem exec_keepsQueue (c : Instr) (s : State) :
    KeepsQueue s (exec c s) ∨ c = .pop ∨ c = .flush ∨ c = .headLatchLoad ∨ c = .powerOnReset
      ∨ (∃ x, c = .restart x) ∨ (∃ v, c = .watermarkWrite v) ∨ (∃ a v, c = .registerWrite a v)
      ∨ ∃ who, c = .recordSubmission who := by
  cases c with
  | pop | flush | headLatchLoad | powerOnReset | restart x | watermarkWrite v | registerWrite a v
  | recordSubmission who => simp
  | readEntry => exact .inl (execReadEntry_queue s)
  | writeEntry => exact .inl (execWriteEntry_queue s)
  | arm => exact .inl (execArm_queue s)
  | disarm => exact .inl (execDisarm_queue s)
  | release => exact .inl (execRelease_queue s)
  | releaseAll x => exact .inl (execReleaseAll_queue s x)
  | enable => exact .inl (execEnable_queue s)
  | disable => exact .inl (execDisable_queue s)
  | readChannel => exact .inl (keepsQueue_ite (serveReadChannel_queue s))
  | writeChannel => exact .inl (keepsQueue_ite (serveWriteChannel_queue s))
  | readLine => exact .inl (keepsQueue_ite (serveReadLine_queue s))
  | writeLine => exact .inl (keepsQueue_ite (serveWriteLine_queue s))
  | silence => exact .inl (keepsQueue_ite (serveSilence_queue s))
  | override => exact .inl (keepsQueue_ite (serveOverride_queue s))
  | resume => exact .inl (keepsQueue_ite (serveResume_queue s))
  | readAcc => exact .inl (execReadAcc_queue s)
  | writeAcc => exact .inl (execWriteAcc_queue s)
  | clearPortCounts => exact .inl (keepsQueue_ite rfl)
  | badOpcode op | cmdOpWriteLost op | commandTaken op =>
    exact .inl (keepsQueue_hostWrite (writeCmdOp_queue op))
  | evaluation x => exact .inl (execEvaluation_queue s x)
  | captureStep => exact .inl (execCaptureStep_queue s)
  | qualificationTimerExpiry n | shapingTimerExpiry n => exact .inl (keepsQueue_ite (bankTick_queue s))
  | qualificationExpiryTaken => exact .inl (execQualificationExpiryTaken_queue s)
  | shapingExpiryTaken => exact .inl (execShapingExpiryTaken_queue s)
  | tickBy x => exact .inl (execTickBy_queue s x)
  | freshnessExpiry c => exact .inl (keepsQueue_ite (by rw [chooseWork_queue, channelTick_queue]))
  | arrival => exact .inl (execArrival_queue s)
  | arrivalOutcome => exact .inl (execArrivalOutcome_queue s)
  | frameStart => exact .inl (execFrameStart_queue s)
  | frameEnd => exact .inl (execFrameEnd_queue s)
  | injTagWrite v => exact .inl (keepsQueue_hostWrite (writeInjTag_queue v))
  | injValueLowWrite v | injValueHighWrite v | tbdivLowWrite v | tbdivHighWrite v | intFlagsClear v | intMaskWrite v =>
    exact .inl (keepsQueue_hostWrite fun _ => by rfl)
  | oeChange v | portEnChange v => exact .inl (keepsQueue_hostWrite (writeControl_queue v))
  | timestampLatchLoad | bitmapLatchLoad b => exact .inl (keepsQueue_hostRead fun _ => by rfl)
  | shutoffAssert => exact .inl (execShutoffAssert_queue s)
  | shutoffRelease => exact .inl (keepsQueue_ite (takeLineCommand_queue s))
  | powerOnResetEnd => exact .inl (keepsQueue_ite rfl)
  | sclkRisingEdge sdat =>
    refine .inl (keepsQueue_next.mpr ?_)
    split
    · rfl
    · exact takePortCommand_queue s

/-- What a command can do to the event queue. -/
theorem exec_queueEvent {c : Instr} (h : exec c s = .next t) : QueueEvent s c t.queue := by
  by_cases hpop : c = .pop
  · subst hpop; exact execPop_event h
  rcases exec_keepsQueue c s with hk | rfl | rfl | rfl | rfl | ⟨x, rfl⟩ | ⟨v, rfl⟩ | ⟨a, v, rfl⟩ | ⟨who, rfl⟩
  · exact .of_eq (hk t h) fun e => absurd e hpop
  · exact absurd rfl hpop
  · exact execFlush_event h
  · exact execHeadLatchLoad_event h
  · cases h; exact .reset
  · exact execRestart_event h
  · exact execWatermarkWrite_event h
  · exact execRegisterWrite_event h
  · exact execRecordSubmission_event h

end

/-! ## The head, and the records -/

/-- Settles O15: by cases on what the command does to the queue. -/
theorem headLeavesOnlyByPopFlushRestartOrReset : Obligations.HeadLeavesOnlyByPopFlushRestartOrReset := by
  intro c s t h
  have he := exec_queueEvent h
  generalize t.queue = q at he ⊢
  cases he with
  | kept w hw latch hpop =>
    refine ⟨fun r rest hq => ⟨fun _ _ _ _ => by simp [hq], fun hc => ?_⟩, fun hq r rest hr => ?_⟩
    · have hidle : ¬ Waits .pop s := fun hw => by simpa [hq] using hpop hc hw
      simp [hq, hidle]
    · simp [hq] at hr
  | popped hwaits hq =>
    refine ⟨fun r rest hr => ⟨fun hc => absurd rfl hc, fun _ => ?_⟩, fun hr => ?_⟩
    · rw [hq] at hr
      cases hr
      rw [if_pos hwaits]
    · rw [hr] at hq
      cases hq
  | flushed => exact ⟨fun _ _ _ => ⟨fun _ hc => absurd rfl hc, nofun⟩, fun _ _ _ => nofun⟩
  | reset => exact ⟨fun _ _ _ => ⟨fun _ _ hc => absurd rfl hc, nofun⟩, fun _ _ _ => nofun⟩
  | taken htakes =>
    refine ⟨fun r rest hq => ⟨fun _ _ _ _ => htakes.head hq, nofun⟩, fun hq r rest hr => ?_⟩
    rw [htakes.of_empty hq] at hr ⊢
    simp only [EventQueue.append, hq, List.nil_append, List.cons.injEq] at hr
    obtain ⟨rfl, rfl⟩ := hr
    exact ⟨rfl, rfl, fun _ => rfl⟩
  | restarted =>
    refine ⟨fun _ _ _ => ⟨fun _ _ _ hc => absurd rfl (hc _), nofun⟩, fun _ r rest hr => ?_⟩
    simp only [EventQueue.append, EventQueue.emptied, List.nil_append, List.cons.injEq] at hr
    obtain ⟨rfl, rfl⟩ := hr
    exact ⟨rfl, rfl, fun hc => absurd rfl (hc _)⟩

/-- Settles O16: what is kept is a sublist in every case, and RESTART's own record is the one admitted to an emptied
queue. -/
theorem queueRecordsAreNeverAltered : Obligations.QueueRecordsAreNeverAltered := by
  intro c s t h
  have he := exec_queueEvent h
  generalize t.queue = q at he ⊢
  cases he with
  | kept => exact ⟨fun _ => .inl ⟨rfl, rfl⟩, fun _ => ⟨_, .refl _, .inl ⟨rfl, .inl rfl⟩⟩⟩
  | popped _ hq =>
    refine ⟨nofun, fun _ => ⟨_, ?_, .inl ⟨rfl, .inl rfl⟩⟩⟩
    rw [hq]
    exact List.sublist_cons_self _ _
  | flushed => exact ⟨nofun, fun _ => ⟨[], List.nil_sublist _, .inl ⟨rfl, .inl rfl⟩⟩⟩
  | reset => exact ⟨nofun, fun _ => ⟨[], List.nil_sublist _, .inl ⟨rfl, .inr rfl⟩⟩⟩
  | taken htakes =>
    obtain ⟨kept, hsub, h⟩ := htakes.kept
    exact ⟨nofun, fun _ => ⟨kept, hsub, h.imp_left (And.imp_right .inl)⟩⟩
  | restarted => exact ⟨fun _ => .inr ⟨_, rfl, rfl, rfl, rfl⟩, fun hc => absurd rfl (hc _)⟩

end Sys2Proof.QueueEvents
end

section
/-! PROOFS. The law of the event queue is kept by every step (O7). It speaks of the queue alone, and is stated here with a
margin `k` on top of the bound on ages: the record to be admitted pays for the number it takes with its severity, and a
record that leaves from between others has made room for a higher severity than its own. -/

namespace Sys2Proof.QueueLaws

open Sys2Proof.Machine Sys2Proof.Safety Sys2Proof.Claims Sys2Proof.QueueFrames Sys2Proof.QueueEvents

/-! ## Ages -/

/-- How many sequence numbers queue `q` has assigned since it assigned that of `r`, counting it, modulo 65536 (R62). -/
def ageIn (q : EventQueue) (r : Record) : Nat :=
  (q.nextSeq - r.seq).toNat

/-- The sum of the severities of some records (R62, Note). -/
def severities (rs : List Record) : Nat :=
  (rs.map fun r => r.body.severity.toNat).sum

@[simp] theorem severities_append (xs ys : List Record) : severities (xs ++ ys) = severities xs + severities ys := by
  simp [severities]

@[simp] theorem severities_cons (r : Record) (rs : List Record) :
    severities (r :: rs) = r.body.severity.toNat + severities rs := by
  simp [severities]

@[simp] theorem severities_nil : severities [] = 0 := rfl

theorem severities_le (rs : List Record) : severities rs ≤ 3 * rs.length := by
  induction rs with
  | nil => simp
  | cons r rs ih =>
    have := r.body.severity.isLt
    simp only [severities_cons, List.length_cons]
    omega

/-- The records are in the order of admission, and the age of each is paid for, but for a margin of `k`, by the records
from it to the tail, the severities in the queue and the records that can still be popped before it. -/
structure Ordered (k : Nat) (q : EventQueue) : Prop where
  fits : q.records.length ≤ 64
  order : q.records.Pairwise fun a b => ageIn q b < ageIn q a
  paid : ∀ (older younger : List Record) (r : Record), q.records = older ++ r :: younger →
    1 ≤ ageIn q r ∧ ageIn q r ≤ (younger.length + 1) + severities q.records + k + 3 * (63 - older.length)

/-- SequenceLaw is the law without a margin. -/
theorem sequenceLaw_iff (s : State) : SequenceLaw s ↔ Ordered 0 s.queue := by
  constructor
  · rintro ⟨hfits, horder, hpaid⟩
    refine ⟨hfits, horder, fun older younger r hq => ?_⟩
    have hlen : s.queue.records.length = older.length + (younger.length + 1) := by simp [hq]
    have hr : s.queue.records[older.length]'(by omega) = r := by simp [hq]
    obtain ⟨hone, hle⟩ := hpaid ⟨older.length, by omega⟩
    rw [Fin.getElem_fin, hr] at hone hle
    have hplaces : s.queue.records.length - older.length = younger.length + 1 := by omega
    simp only [hplaces] at hle
    exact ⟨hone, hle⟩
  · rintro ⟨hfits, horder, hpaid⟩
    refine ⟨hfits, horder, fun i => ?_⟩
    have hi := i.isLt
    obtain ⟨hone, hle⟩ := hpaid (s.queue.records.take i) (s.queue.records.drop (i + 1)) s.queue.records[i] (by simp)
    rw [List.length_drop, List.length_take, Nat.min_eq_left hi.le] at hle
    rw [show s.queue.records.length - i.val = s.queue.records.length - (i.val + 1) + 1 by omega]
    exact ⟨hone, hle⟩

theorem Ordered.empty (k : Nat) {q : EventQueue} (h : q.records = []) : Ordered k q := by
  refine ⟨by simp [h], by simp [h], fun older younger r hq => ?_⟩
  simp [h] at hq

/-- The law is one of the records and NEXT_SEQ. -/
theorem Ordered.congr {k : Nat} {q q' : EventQueue} (h : Ordered k q) (hr : q'.records = q.records)
    (hn : q'.nextSeq = q.nextSeq) : Ordered k q' := by
  obtain ⟨hfits, horder, hpaid⟩ := h
  refine ⟨by rwa [hr], ?_, ?_⟩
  · simpa only [hr, ageIn, hn] using horder
  · simpa only [hr, ageIn, hn] using hpaid

theorem Ordered.mono {j k : Nat} {q : EventQueue} (h : Ordered j q) (hjk : j ≤ k) : Ordered k q :=
  ⟨h.fits, h.order, fun older younger r hq => ⟨(h.paid older younger r hq).1, by
    have := (h.paid older younger r hq).2
    omega⟩⟩

/-! ## Removal and admission -/

/-- A record taken out leaves the law behind, with a margin above its severity, or with none where it was the head: the
younger records have a place less before them, which its severity does not exceed. -/
theorem Ordered.remove {k : Nat} {q q' : EventQueue} {older younger : List Record} {v : Record} (h : Ordered 0 q)
    (hq : q.records = older ++ v :: younger) (hv : older = [] ∨ v.body.severity.toNat < k)
    (hr : q'.records = older ++ younger) (hn : q'.nextSeq = q.nextSeq) : Ordered k q' := by
  have hage : ageIn q' = ageIn q := by
    funext r
    rw [ageIn, hn, ageIn]
  have hsev := v.body.severity.isLt
  have hlen : q.records.length = older.length + younger.length + 1 := by rw [hq]; simp; omega
  have hfits := h.fits
  have hsub : (older ++ younger).Sublist q.records := by
    rw [hq]
    exact (List.sublist_cons_self v younger).append_left older
  refine ⟨by rw [hr]; simp; omega, ?_, fun a b r hab => ?_⟩
  · rw [hr, hage]
    exact h.order.sublist hsub
  rw [hr] at hab ⊢
  rw [hage]
  have hyounger (c : List Record) (ha : a = older ++ c) (hc : younger = c ++ r :: b) :
      1 ≤ ageIn q r ∧ ageIn q r ≤ (b.length + 1) + severities (older ++ younger) + k + 3 * (63 - a.length) := by
    obtain ⟨hone, hle⟩ := h.paid (older ++ v :: c) b r (by simp [hq, hc])
    rw [hq] at hle
    subst ha hc
    simp only [severities_append, severities_cons, List.length_append, List.length_cons] at hle hlen ⊢
    omega
  rcases List.append_eq_append_iff.mp hab with ⟨c, ha, hc⟩ | ⟨c, ha, hc⟩
  · exact hyounger c ha hc
  · cases c with
    | nil => exact hyounger [] (by simpa using ha.symm) (by simpa using hc.symm)
    | cons x c =>
      rw [List.cons_append, List.cons.injEq] at hc
      obtain ⟨rfl, rfl⟩ := hc
      have hlt : v.body.severity.toNat < k := hv.resolve_left (by simp [ha])
      obtain ⟨hone, hle⟩ := h.paid a (c ++ v :: younger) r (by simp [hq, ha])
      rw [hq] at hle
      subst ha
      simp only [severities_append, severities_cons, List.length_append, List.length_cons] at hle ⊢
      omega

/-- While the law holds no age comes near the end of its range (R62, Note). -/
theorem Ordered.age_lt {k : Nat} {q : EventQueue} {r : Record} (h : Ordered k q) (hr : r ∈ q.records) :
    1 ≤ ageIn q r ∧ ageIn q r ≤ 445 + k := by
  obtain ⟨older, younger, hq⟩ := List.append_of_mem hr
  obtain ⟨hone, hle⟩ := h.paid older younger r hq
  have hsev := severities_le q.records
  have hfits := h.fits
  have hlen : q.records.length = older.length + (younger.length + 1) := by simp [hq]
  omega

/-- One more number has been assigned since every record that was there. -/
theorem ageIn_append {k : Nat} {q : EventQueue} {r : Record} (b : RecordBody) (now : Word) (h : Ordered k q)
    (hk : k ≤ 3) (hr : r ∈ q.records) : ageIn (q.append b now) r = ageIn q r + 1 := by
  have hle := (h.age_lt hr).2
  have hnext : (q.append b now).nextSeq - r.seq = (q.nextSeq - r.seq) + 1 := by
    rw [EventQueue.append]
    bv_omega
  rw [ageIn, hnext, BitVec.toNat_add, ← ageIn]
  exact Nat.mod_eq_of_lt (by simp; omega)

/-- An admission keeps the law where there is room and the margin is the severity of the record (R62, R66). -/
theorem Ordered.append {q : EventQueue} {b : RecordBody} (now : Word) (h : Ordered b.severity.toNat q)
    (hroom : q.records.length < 64) : Ordered 0 (q.append b now) := by
  have hsev := b.severity.isLt
  have hage (r : Record) (hr : r ∈ q.records) : ageIn (q.append b now) r = ageIn q r + 1 :=
    ageIn_append b now h (by omega) hr
  obtain ⟨x, hx, hbody, hseq⟩ : ∃ x : Record,
      (q.append b now).records = q.records ++ [x] ∧ x.body = b ∧ x.seq = q.nextSeq := ⟨_, rfl, rfl, rfl⟩
  have hnew : ageIn (q.append b now) x = 1 := by
    rw [ageIn, hseq, EventQueue.append]
    bv_omega
  refine ⟨by rw [hx]; simp; omega, ?_, fun older younger r hq => ?_⟩
  · rw [hx, List.pairwise_append]
    refine ⟨h.order.imp_of_mem fun {a c} ha hc hlt => ?_, List.pairwise_singleton _ _, fun r hr y hy => ?_⟩
    · rw [hage a ha, hage c hc]
      omega
    · rw [List.mem_singleton.mp hy, hnew, hage r hr]
      have := (h.age_lt hr).1
      omega
  · rw [hx] at hq ⊢
    have htail (hr : r = x) : 1 ≤ ageIn (q.append b now) r ∧ ageIn (q.append b now) r ≤
        (younger.length + 1) + severities (q.records ++ [x]) + 0 + 3 * (63 - older.length) := by
      rw [hr, hnew]
      omega
    rcases List.append_eq_append_iff.mp hq with ⟨c, -, hc⟩ | ⟨c, ha, hc⟩
    · cases c with
      | nil => exact htail (List.cons.inj hc).1.symm
      | cons y c => simp at hc
    · cases c with
      | nil => exact htail (List.cons.inj hc).1
      | cons y c =>
        rw [List.cons_append, List.cons.injEq] at hc
        obtain ⟨rfl, rfl⟩ := hc
        obtain ⟨hone, hle⟩ := h.paid older c r ha
        rw [hage r (by simp [ha])]
        simp only [severities_append, severities_cons, severities_nil, hbody, List.length_append, List.length_cons,
          List.length_nil] at hle ⊢
        omega

/-- The queue takes a submission (R65 to R69). -/
theorem ordered_of_takes {b : RecordBody} {now : Word} {q q' : EventQueue} (h : Takes b now q q') (ho : Ordered 0 q) :
    Ordered 0 q' := by
  cases h with
  | admitted hroom => exact (ho.mono (Nat.zero_le _)).append now hroom
  | @evicted head victim older younger hq hfull hlt =>
    have hleft : Ordered b.severity.toNat
        { q with records := head :: (older ++ younger), marks := q.marks.put victim.body.kind true } :=
      ho.remove (older := head :: older) hq (.inr hlt) rfl rfl
    refine hleft.append now ?_
    have := ho.fits
    rw [hq] at this
    simp at this ⊢
    omega
  | dropped => exact ho.congr rfl rfl

/-! ## Every step keeps the law -/

theorem clipWatermark_toNat (v : Byte) : (clipWatermark v).toNat = max 1 (min 64 v.toNat) := by
  unfold clipWatermark
  split
  · next h => subst h; rfl
  · next h =>
    have hv : v.toNat ≠ 0 := fun e => h (BitVec.eq_of_toNat_eq e)
    split
    · simp; omega
    · omega

/-- WATERMARK holds a number from 1 to 64 (R77). -/
def WatermarkLaw (w : Byte) : Prop :=
  1 ≤ w.toNat ∧ w.toNat ≤ 64

theorem clipWatermark_law (v : Byte) : WatermarkLaw (clipWatermark v) := by
  rw [WatermarkLaw, clipWatermark_toNat]
  omega

/-- What a command does to the queue keeps both laws. -/
theorem keepsLaws_of_queueEvent {s : State} {c : Instr} {q : EventQueue} (h : QueueEvent s c q)
    (hw : WatermarkLaw s.queue.watermark) (ho : Ordered 0 s.queue) : WatermarkLaw q.watermark ∧ Ordered 0 q := by
  cases h with
  | kept w hstored =>
    refine ⟨?_, ho.congr rfl rfl⟩
    rcases hstored with rfl | ⟨v, rfl⟩
    · exact hw
    · exact clipWatermark_law v
  | popped _ hq => exact ⟨hw, ho.remove (older := []) hq (.inl rfl) rfl rfl⟩
  | flushed => exact ⟨hw, .empty 0 rfl⟩
  | reset => exact ⟨⟨by decide, by decide⟩, .empty 0 rfl⟩
  | taken htakes => exact ⟨htakes.watermark ▸ hw, ordered_of_takes htakes ho⟩
  | @restarted _ q hwater =>
    refine ⟨?_, (Ordered.empty _ rfl).append _ (by simp [EventQueue.emptied])⟩
    rw [← hwater] at hw
    exact hw

/-- Settles O7: by what the step does to the queue, which a CLKIN period does not reach. -/
theorem stepKeepsQueueLaws : Obligations.StepKeepsQueueLaws := by
  intro s t ⟨_, hw⟩ hs hstep
  have hq : WatermarkLaw t.queue.watermark ∧ Ordered 0 t.queue := by
    have ho := (sequenceLaw_iff s).mp hs
    unfold step at hstep
    split at hstep
    · cases hstep
      rw [clkin_queue]
      exact ⟨hw, ho⟩
    · exact keepsLaws_of_queueEvent (exec_queueEvent hstep) hw ho
  exact ⟨⟨hq.2.fits, hq.1⟩, (sequenceLaw_iff t).mpr hq.2⟩

end Sys2Proof.QueueLaws
end

section
/-! PROOFS. The queue's own commands and its watermark (O38), and the submission it takes next, as a whole (O39). -/

namespace Sys2Proof.QueueCommands

open Sys2Proof.Machine Sys2Proof.Safety Sys2Proof.Claims Sys2Proof.QueueEvents Sys2Proof.QueueLaws

/-! ## POP, FLUSH, WATERMARK -/

/-- R168: the model's completion is the statements'. -/
theorem complete_eq_completed (r : Result) (s : State) : complete r s = completed r s := rfl

theorem pop_empty {s : State} (hw : Waits .pop s) (hq : s.queue.records = []) :
    exec .pop s = .next (completed .queueEmpty s) := by
  simp only [exec, execPop, if_pos (ready_iff.mpr hw), hq, complete_eq_completed]

theorem pop_head {s : State} {r : Record} {rest : List Record} (hw : Waits .pop s) (hq : s.queue.records = r :: rest) :
    exec .pop s = .next (completed .ok { s with queue := { s.queue with records := rest } }) := by
  simp only [exec, execPop, if_pos (ready_iff.mpr hw), hq, complete_eq_completed]

/-- No mark is set in the cleared marks (R67, R74). -/
theorem clear_get (k : RecordKind) : LossMarks.clear.get k = false := by
  cases k <;> simp [LossMarks.get, LossMarks.clear]

theorem flush_served {s : State} (hw : Waits .flush s) :
    exec .flush s = .next (completed .ok { s with queue := s.queue.emptied }) := by
  simp only [exec, execFlush, if_pos (ready_iff.mpr hw), complete_eq_completed]

/-- A write of WATERMARK stores the clipped value, and makes the EVENTS request where that is not above the count
(R77). -/
theorem writeWatermark_eq (v : Byte) (s : State) : writeWatermark v s = { s with
    queue := { s.queue with watermark := clipWatermark v }
    intr := if (clipWatermark v).toNat ≤ s.queue.records.length then { s.intr with flags := s.intr.flags ||| 0x01 }
      else s.intr } := by
  rw [writeWatermark, requestIf]
  by_cases h : (clipWatermark v).toNat ≤ s.queue.records.length
  · rw [if_pos (decide_eq_true h), if_pos h]
    rfl
  · rw [if_neg (mt of_decide_eq_true h), if_neg h]

/-- Settles O38: each is one event of the queue, written out. -/
theorem popFlushAndWatermark : Obligations.PopFlushAndWatermark := by
  refine ⟨fun s => pop_empty, fun s r rest => pop_head, fun s hw => ⟨_, flush_served hw, rfl, clear_get⟩,
    fun s v hreset => ⟨clipWatermark v, clipWatermark_toNat v, writeWatermark v (floatData s), ?_, ?_⟩⟩
  · simp [exec, execWatermarkWrite, hostWrite, hreset]
  · rw [writeWatermark_eq]
    rfl

/-! ## The submission taken next -/

section
variable {s : State} {w : Waiting} {pre post : List Waiting}

/-- The oldest submission of a submitter is the next the queue can take from it, if it may pass all that waits before it
(R65, log 8). -/
theorem nextSubmission_eq (hs : s.waiting = pre ++ w :: post) (hpre : ∀ v ∈ pre, v.submitter ≠ w.submitter) :
    nextSubmission w.submitter s = if pre.all w.mayPass then some w else none := by
  have hfind : s.waiting.find? (fun v => v.submitter == w.submitter) = some w := by
    rw [List.find?_eq_some_iff_append]
    exact ⟨beq_self_eq_true _, pre, post, hs, by simpa using hpre⟩
  have htake : s.waiting.takeWhile (fun v => v.submitter != w.submitter) = pre := by
    rw [hs, List.takeWhile_append_of_pos (by simpa using hpre)]
    simp
  rw [nextSubmission, hfind, htake]

theorem eraseP_waiting (hs : s.waiting = pre ++ w :: post) (hpre : ∀ v ∈ pre, v.submitter ≠ w.submitter) :
    s.waiting.eraseP (fun v => v.submitter == w.submitter) = pre ++ post := by
  rw [hs, List.eraseP_append_right _ (by simpa using hpre), List.eraseP_cons, beq_self_eq_true, cond_true]

theorem mayPass_iff {v : Waiting} : w.mayPass v = true ↔ v.item = w.item ∧ v.loose = true := by
  rw [Waiting.mayPass, Bool.and_eq_true, beq_iff_eq, eq_comm]

/-- A submission waits while one before it may not be passed (R65, log 8). -/
theorem recordSubmission_waits (hs : s.waiting = pre ++ w :: post) (hpre : ∀ v ∈ pre, v.submitter ≠ w.submitter)
    (hv : ∃ v ∈ pre, v.item ≠ w.item ∨ v.loose = false) : exec (.recordSubmission w.submitter) s = .next s := by
  have hall : ¬ pre.all w.mayPass = true := by
    obtain ⟨v, hmem, hv⟩ := hv
    intro h
    obtain ⟨hitem, hloose⟩ := mayPass_iff.mp (List.all_eq_true.mp h v hmem)
    rcases hv with hv | hv
    · exact hv hitem
    · rw [hloose] at hv; cases hv
  simp only [exec, execRecordSubmission, nextSubmission_eq hs hpre, if_neg hall]

/-- A submission that may pass all that waits before it is taken (R65). -/
theorem recordSubmission_taken (hs : s.waiting = pre ++ w :: post) (hpre : ∀ v ∈ pre, v.submitter ≠ w.submitter)
    (hv : ∀ v ∈ pre, v.item = w.item ∧ v.loose = true) :
    exec (.recordSubmission w.submitter) s = .next (takeRecord w.body { s with waiting := pre ++ post }) := by
  have hall : pre.all w.mayPass = true := List.all_eq_true.mpr fun v hmem => mayPass_iff.mpr (hv v hmem)
  simp only [exec, execRecordSubmission, nextSubmission_eq hs hpre, if_pos hall, eraseP_waiting hs hpre]

end

/-! ## What the queue makes of it -/

section
variable {s : State} {b : RecordBody}

/-- R66, R77, R78: with room. -/
theorem takeRecord_of_room (h : s.queue.records.length < 64) : takeRecord b s = { s with
    queue := s.queue.append b s.timebase.timestamp
    intr := { s.intr with flags := s.intr.flags
      ||| (if s.queue.records.length + 1 = s.queue.watermark.toNat then 0x01 else 0)
      ||| (if b.severity = 3 then 0x02 else 0) } } := by
  rw [takeRecord, if_pos h, admitWithRoom]
  simp [requestSevere, requestIf_eq, EventQueue.append, Flag.mask]

/-- R68, R78: a full queue with a victim. -/
theorem takeRecord_of_victim {head victim : Record} {older younger : List Record}
    (hq : s.queue.records = head :: (older ++ victim :: younger)) (hfull : s.queue.records.length = 64)
    (hlt : victim.body.severity < b.severity) (hyounger : ∀ r ∈ younger, ¬ r.body.severity < b.severity) :
    takeRecord b s = { s with
      queue := EventQueue.append { s.queue with
        records := head :: (older ++ younger), marks := s.queue.marks.put victim.body.kind true } b s.timebase.timestamp
      intr := { s.intr with flags := s.intr.flags ||| 0x04 ||| (if b.severity = 3 then 0x02 else 0) } } := by
  have hevict : evictNewest b.severity (older ++ victim :: younger) = some (victim, older ++ younger) :=
    evictNewest_eq_some.mpr ⟨older, younger, rfl, rfl, hlt, hyounger⟩
  rw [takeRecord, if_neg (by omega), hq]
  simp only [hevict, admitByEviction, requestSevere, requestIf_eq, beq_iff_eq]
  rfl

/-- R69: a full queue without a victim. -/
theorem takeRecord_of_no_victim {head : Record} {tail : List Record} (hq : s.queue.records = head :: tail)
    (hfull : s.queue.records.length = 64) (htail : ∀ r ∈ tail, ¬ r.body.severity < b.severity) :
    takeRecord b s = { s with
      queue := { s.queue with marks := s.queue.marks.put b.kind true }
      intr := { s.intr with flags := s.intr.flags ||| 0x04 } } := by
  rw [takeRecord, if_neg (by omega), hq]
  simp only [evictNewest_eq_none.mpr htail]
  rfl

end

/-- Settles O39: which submission is next, then what the queue makes of it, and the mark of each kind of record. -/
theorem submissionIsAdmittedEvictsOrIsDropped : Obligations.SubmissionIsAdmittedEvictsOrIsDropped := by
  refine ⟨fun s w pre post hs hpre => ⟨recordSubmission_waits hs hpre, fun hv => ⟨fun hroom => ?_,
    fun head victim a b hq hfull hlt hb => ?_, fun head tail hq hfull htail => ?_⟩⟩, fun m b => ⟨?_, ?_, ?_, ?_⟩⟩
  · rw [recordSubmission_taken hs hpre hv]
    exact congrArg _ (takeRecord_of_room (s := { s with waiting := pre ++ post }) hroom)
  · rw [recordSubmission_taken hs hpre hv]
    exact congrArg _ (takeRecord_of_victim (s := { s with waiting := pre ++ post }) hq hfull hlt hb)
  · rw [recordSubmission_taken hs hpre hv]
    exact congrArg _ (takeRecord_of_no_victim (s := { s with waiting := pre ++ post }) hq hfull htail)
  · simp [LossMarks.get, LossMarks.put]
  · simp [LossMarks.get, LossMarks.put]
  · simp [LossMarks.get, LossMarks.put]
  · simp [LossMarks.get, LossMarks.put]

end Sys2Proof.QueueCommands
end

section
/-! PROOFS. The refusals of the commands that the other blocks serve (O21). -/

namespace Sys2Proof.Refusals

open Sys2Proof.Machine Sys2Proof.Safety Sys2Proof.Claims Sys2Proof.Images Sys2Proof.TableCommands Sys2Proof.QueueCommands

/-! ## WRITE_CHANNEL -/

/-- A proposal for a channel names nothing exactly when its source code is 3 (R139). -/
theorem parseChannel_eq_none {b : Vector Byte 32} : parseChannel b = none ↔ b[0].toNat % 4 = 3 := by
  have hcode : Source.ofCode (b[0].toNat % 4) = none ↔ b[0].toNat % 4 = 3 := by
    have hlt : b[0].toNat % 4 < 4 := Nat.mod_lt _ (by decide)
    generalize b[0].toNat % 4 = k at hlt
    interval_cases k <;> decide
  rw [← hcode, parseChannel]
  split <;> simp_all

section
variable {s : State} {c l : Fin 16}

theorem writeChannel_badField (hw : Waits .writeChannel s) (hc : Index c s) (h : s.cmd.seen[0].toNat % 4 = 3) :
    exec .writeChannel s = .next (completed .badField s) := by
  simp only [exec, execWriteChannel, if_pos (ready_iff.mpr hw), serveWriteChannel, channelArg_of_index hc,
    parseChannel_eq_none.mpr h, complete_eq_completed]

theorem writeChannel_channelOn (hw : Waits .writeChannel s) (hc : Index c s) (h : s.cmd.seen[0].toNat % 4 ≠ 3)
    (havg : s.cmd.seen[0].toNat / 4 % 4 ≠ avgLenCode s.channels[c].cfg.avgLen) (hon : s.channels[c].state ≠ .off) :
    exec .writeChannel s = .next (completed .channelOn s) := by
  obtain ⟨cfg, hparse⟩ := Option.ne_none_iff_exists'.mp (mt parseChannel_eq_none.mp h)
  obtain ⟨-, hbyte, -⟩ := parseChannel_eq_some.mp hparse
  have hne : (cfg.avgLen != s.channels[c].cfg.avgLen && s.channels[c].state != .off) = true := by
    rw [Bool.and_eq_true, bne_iff_ne, bne_iff_ne]
    exact ⟨fun e => havg (e ▸ hbyte), hon⟩
  simp only [exec, execWriteChannel, if_pos (ready_iff.mpr hw), serveWriteChannel, channelArg_of_index hc, hparse,
    if_pos hne, complete_eq_completed]

/-! ## Line commands -/

theorem lineArg_of_index (h : Index l s) : lineArg s = some l :=
  indexOf_eq_some.mpr h

theorem anyCut_iff : anyCut s = true ↔ ∃ k : Fin 16, s.lines[k].cut = true := by
  simp only [anyCut, List.any_eq_true, List.mem_finRange, true_and]

/-- The checks of R105 on the staging byte the command sees, in their order. -/
theorem lineRefusal_eq (l : Fin 16) (s : State) : lineRefusal l (parseLine s.cmd.seen[0]) s =
    if s.cmd.seen[0].getLsbD 1 ≠ s.lines[l].cutMember ∧ s.shutoff = true then some .shutoffActive
    else if s.cmd.seen[0].getLsbD 1 ≠ s.lines[l].cutMember ∧ ∃ k : Fin 16, s.lines[k].cut = true then some .cutActive
    else if s.cmd.seen[0].getLsbD 3 = true ∧ s.lines[l].hold = true ∧ s.lines[partner l].hold = true then some .pairBusy
    else none := by
  simp only [lineRefusal, parseLine, hasBit, Bool.and_eq_true, bne_iff_ne, anyCut_iff, and_assoc]

theorem writeLine_refused {r : Result} (hw : Waits .writeLine s) (hl : Index l s)
    (h : lineRefusal l (parseLine s.cmd.seen[0]) s = some r) : exec .writeLine s = .next (completed r s) := by
  simp only [exec, execWriteLine, if_pos (ready_iff.mpr hw), serveWriteLine, lineArg_of_index hl, h,
    complete_eq_completed]

theorem silence_noDemand (hw : Waits .silence s) (hl : Index l s)
    (h : s.lines[l].demand = false ∨ s.lines[l].override ≠ .auto) :
    exec .silence s = .next (completed .noDemand s) := by
  have hno : (!s.lines[l].demand || s.lines[l].override != .auto) = true := by
    simpa only [Bool.or_eq_true, Bool.not_eq_true', bne_iff_ne] using h
  simp only [exec, execSilence, if_pos (ready_iff.mpr hw), serveSilence, lineArg_of_index hl, if_pos hno,
    complete_eq_completed]

/-- An override code above 2 names no mode (R93). -/
theorem override_ofCode_eq_none {k : Nat} (h : 2 < k) : Override.ofCode k = none := by
  match k, h with
  | _ + 3, _ => rfl

theorem override_badField (hw : Waits .override s) (hl : Index l s) (h : 2 < s.cmd.captured1.toNat) :
    exec .override s = .next (completed .badField s) := by
  simp only [exec, execOverride, if_pos (ready_iff.mpr hw), serveOverride, lineArg_of_index hl,
    override_ofCode_eq_none h, complete_eq_completed]

theorem resume_shutoffActive (hw : Waits .resume s) (h : s.shutoff = true) :
    exec .resume s = .next (completed .shutoffActive s) := by
  simp only [exec, execResume, if_pos (ready_iff.mpr hw), serveResume, if_pos h, complete_eq_completed]

end

/-- Settles O21: each refusal is a branch of the command's service. -/
theorem ownerCommandsRefusedByState : Obligations.OwnerCommandsRefusedByState := by
  intro s l c
  refine ⟨writeChannel_badField, writeChannel_channelOn, fun hw hl hne hshut => ?_,
    fun hw hl hne hshut hcut => ?_, fun hw hl hsame hexcl hhold hpartner => ?_, silence_noDemand, override_badField,
    resume_shutoffActive, pop_empty⟩
  · exact writeLine_refused hw hl (by rw [lineRefusal_eq, if_pos ⟨hne, hshut⟩])
  · exact writeLine_refused hw hl (by rw [lineRefusal_eq, if_neg (by simp [hshut]), if_pos ⟨hne, hcut⟩])
  · refine writeLine_refused hw hl ?_
    have hshutoff : ¬ (s.cmd.seen[0].getLsbD 1 ≠ s.lines[l].cutMember ∧ s.shutoff = true) := by
      rintro ⟨hne, hshut⟩
      exact hsame.elim hne fun h => by rw [h.1] at hshut; cases hshut
    have hcut : ¬ (s.cmd.seen[0].getLsbD 1 ≠ s.lines[l].cutMember ∧ ∃ k : Fin 16, s.lines[k].cut = true) := by
      rintro ⟨hne, k, hk⟩
      exact hsame.elim hne fun h => by rw [h.2 k] at hk; cases hk
    rw [lineRefusal_eq, if_neg hshutoff, if_neg hcut, if_pos ⟨hexcl, hhold, hpartner⟩]

end Sys2Proof.Refusals
end

section
/-! PROOFS. The laws right after power-on reset (O14). Every table holds one power-on record throughout, so each law comes
down to that record. -/

namespace Sys2Proof.AtReset

open Sys2Proof.Machine Sys2Proof.Safety Sys2Proof.WatchTable Sys2Proof.QueueLaws

theorem reset_entry (n : Fin 32) : State.reset.entries[n] = Entry.powerOn := by simp [State.reset]

theorem reset_channel (c : Fin 16) : State.reset.channels[c] = Channel.powerOn := by simp [State.reset]

theorem reset_line (l : Fin 16) : State.reset.lines[l] = Line.powerOn := by simp [State.reset]

theorem powerOn_contrib (n : Fin 32) : Line.powerOn.contrib[n] = false := by simp [Line.powerOn]

theorem outputLaw_reset : OutputLaw State.reset := by
  intro l
  have hnone : ¬ ∃ n : Fin 32, Line.powerOn.contrib[n] = true := by
    rintro ⟨n, h⟩
    rw [powerOn_contrib] at h
    cases h
  have hrelations : LineRelations State.reset l := by
    rw [LineRelations, reset_line]
    exact ⟨iff_of_false (by decide) hnone, rfl, rfl, nofun, rfl⟩
  have hpair : PairLaw State.reset l := by
    rw [PairLaw, reset_line]
    exact ⟨fun _ h => absurd h.1 (by decide), nofun⟩
  refine ⟨hrelations, ?_, hpair, ?_⟩
  · rw [SilenceLaw, reset_line]
    nofun
  · rw [CutLaw, reset_line]
    exact ⟨nofun, nofun⟩

/-- The watch table at reset is that of a part in power-on reset. -/
theorem watchLaw_reset : WatchLaw State.reset :=
  (WatchKept.of_eq (s := powerOn State.reset) rfl rfl).watchLaw (powerOn_watchLaw State.reset)

theorem contributionLaw_reset : ContributionLaw State.reset := by
  intro n
  rw [reset_entry, if_neg (by decide)]
  refine ⟨by decide, fun l => ?_⟩
  rw [reset_line, powerOn_contrib]
  exact iff_of_false nofun fun h => absurd h.1 nofun

theorem channelsLaw_reset : ChannelsLaw State.reset := by
  refine ⟨fun c => ?_, fun _ _ => nofun⟩
  rw [reset_channel]
  exact ⟨Nat.zero_le _, fun _ => rfl, fun _ => ⟨rfl, rfl⟩, nofun⟩

theorem engineLaw_reset : EngineLaw State.reset := by
  refine ⟨fun _ => ⟨fun n => ?_, by decide, fun c => ?_⟩, nofun, nofun, nofun⟩
  · rw [reset_entry]
    exact ⟨rfl, rfl⟩
  · rw [reset_channel]
    rfl

/-- Settles O14: law by law. -/
theorem lawsHoldAtReset : Obligations.LawsHoldAtReset :=
  ⟨by decide, (sequenceLaw_iff _).mpr (.empty 0 rfl), outputLaw_reset, watchLaw_reset, contributionLaw_reset,
    channelsLaw_reset, by decide, by decide, ⟨nofun, nofun, by decide⟩, engineLaw_reset, nofun⟩

end Sys2Proof.AtReset
end

section
/-! PROOFS. Reads (O56): what each location returns, which latch a read loads and from what, and when D7 to D0 drive. -/

namespace Sys2Proof.Reads

open Sys2Proof.Machine Sys2Proof.Claims Sys2Proof.Images Sys2Proof.Contributions Sys2Proof.Refusals

/-! ## Bytes of a field -/

theorem byteOf_zero {w : Nat} (x : BitVec w) : byteOf x 0 = x.setWidth 8 := by
  simp [byteOf]

theorem byteOf_eq_extract {w : Nat} (x : BitVec w) (k : Nat) : byteOf x k = x.extractLsb' (8 * k) 8 := by
  ext i hi
  simp [byteOf, BitVec.getElem_setWidth, BitVec.getLsbD_ushiftRight]

/-- The three bytes above the lowest, put together. -/
theorem byteOf_upper (x : Word) : byteOf x 3 ++ byteOf x 2 ++ byteOf x 1 = x.extractLsb' 8 24 := by
  simp only [byteOf_eq_extract]
  ext i hi
  simp only [BitVec.getElem_append, BitVec.getElem_extractLsb']
  split
  · rfl
  · split
    · congr 1; omega
    · congr 1; omega

/-- The upper byte of a 16-bit field read as one of 32. -/
theorem byteOf_setWidth_one (x : BitVec 16) : byteOf (x.setWidth 32) 1 = x.extractLsb' 8 8 := by
  rw [byteOf_eq_extract]
  ext i hi
  simp only [BitVec.getElem_extractLsb', BitVec.getLsbD_setWidth]
  simp; omega

/-! ## The record image -/

theorem recordKind_code (k : RecordKind) : k.code = recordKindCode k := by cases k <;> rfl

theorem recordKindCode_le (k : RecordKind) : recordKindCode k ≤ 8 := by cases k <;> simp [recordKindCode]

theorem recordKind_subject (k : RecordKind) : k.subject.toNat = recordSubject k := by
  cases k with
  | trip n | clear n => exact (BitVec.toNat_ofNat n.val 8).trans (Nat.mod_eq_of_lt (by omega))
  | stale c | invalid c | fresh c => exact (BitVec.toNat_ofNat c.val 8).trans (Nat.mod_eq_of_lt (by omega))
  | conflict l => exact (BitVec.toNat_ofNat l.val 8).trans (Nat.mod_eq_of_lt (by omega))
  | cutoff | restart => rfl

/-- Byte 6 of a record image, as a number (Table 4-3). -/
theorem recordImage_byte_6 (r : Record) :
    (recordImage r)[6].toNat = recordKindCode r.body.kind + 16 * r.body.severity.toNat := by
  have hkind := recordKindCode_le r.body.kind
  have hsev := r.body.severity.isLt
  refine (BitVec.toNat_ofNat ..).trans ?_
  rw [recordKind_code]
  omega

/-- Byte 7 of a record image, as a number (Table 4-3). -/
theorem recordImage_byte_7 (r : Record) : (recordImage r)[7].toNat = r.lossBefore.toNat + 2 * r.body.byRelease.toNat
    + 4 * r.body.valuePresent.toNat + 8 * r.body.fromTimer.toNat := by
  have := Bool.toNat_le r.lossBefore
  have := Bool.toNat_le r.body.byRelease
  have := Bool.toNat_le r.body.valuePresent
  have := Bool.toNat_le r.body.fromTimer
  refine (BitVec.toNat_ofNat ..).trans ?_
  simp only [bit_eq]
  omega

/-- Byte 11 of a record image, as a number (Table 4-3). -/
theorem recordImage_byte_11 (r : Record) : (recordImage r)[11].toNat = r.body.aux.toNat := by
  have haux := r.body.aux.isLt
  refine (BitVec.toNat_ofNat ..).trans ?_
  omega

/-! ## What a read returns -/

/-- The address is that of a direct register or of none: neither a staging byte nor a latched field. -/
abbrev Direct (a : Address) : Prop :=
  stagingIndex a = none ∧ bitmapAt a.toNat = none ∧ ¬ (0x10 ≤ a.toNat ∧ a.toNat < 0x14)
    ∧ ¬ (0x20 ≤ a.toNat ∧ a.toNat < 0x2C)

section
variable {s : State} {a : Address} (hr : s.inReset = false)
include hr

theorem readWindow_direct (h : Direct a) : readWindow s a = registerByte s a.toNat := by
  obtain ⟨hstaging, hbitmap, htime, hhead⟩ := h
  simp only [readWindow, hr, Bool.false_eq_true, if_false, hstaging, hbitmap, if_neg htime, if_neg hhead]

theorem readWindow_staging {k : Fin 32} (h : stagingIndex a = some k) : readWindow s a = s.staging[k] := by
  simp only [readWindow, hr, Bool.false_eq_true, if_false, h]

theorem readWindow_bitmap {b : Bitmap} {k : Nat} (hs : stagingIndex a = none) (hb : bitmapAt a.toNat = some (b, k)) :
    readWindow s a = latchedByte (liveBitmap b s) (bitmapLatch b s) k := by
  simp only [readWindow, hr, Bool.false_eq_true, if_false, hs, hb]

theorem readWindow_timestamp (hs : stagingIndex a = none) (hb : bitmapAt a.toNat = none)
    (ht : 0x10 ≤ a.toNat ∧ a.toNat < 0x14) :
    readWindow s a = latchedByte s.timebase.timestamp s.timebase.readLatch (a.toNat - 0x10) := by
  simp only [readWindow, hr, Bool.false_eq_true, if_false, hs, hb, if_pos ht]

theorem readWindow_head (hs : stagingIndex a = none) (hb : bitmapAt a.toNat = none)
    (ht : ¬ (0x10 ≤ a.toNat ∧ a.toNat < 0x14)) (hh : 0x20 ≤ a.toNat ∧ a.toNat < 0x2C) :
    readWindow s a = headByte s (a.toNat - 0x20) := by
  simp only [readWindow, hr, Bool.false_eq_true, if_false, hs, hb, if_neg ht, if_pos hh]

end

/-! ## The direct registers -/

section
variable {s : State} (hr : s.inReset = false)
include hr

/-- CONTROL (R163). -/
theorem readWindow_control : (readWindow s 0x03).getLsbD 0 = s.oe ∧ (readWindow s 0x03).getLsbD 1 = s.port.enabled
    ∧ (readWindow s 0x03).toNat < 4 := by
  have hoe := Bool.toNat_le s.oe
  have hport := Bool.toNat_le s.port.enabled
  have hbyte : (readWindow s 0x03).toNat = s.oe.toNat + 2 * s.port.enabled.toNat := by
    rw [readWindow_direct hr (by decide)]
    refine (BitVec.toNat_ofNat ..).trans ?_
    simp only [bit_eq]
    omega
  exact ⟨getLsbD_eq_of_toNat (by omega), getLsbD_eq_of_toNat (by omega), by omega⟩

/-- STATUS (R179). -/
theorem readWindow_status : (readWindow s 0x04).getLsbD 0 = s.shutoff
    ∧ ((readWindow s 0x04).getLsbD 1 = true ↔ ∃ l : Fin 16, s.lines[l].cut = true)
    ∧ ((readWindow s 0x04).getLsbD 2 = true ↔ s.queue.records ≠ [])
    ∧ (readWindow s 0x04).toNat / 8 = (match s.cmd.state with | .idle => 0 | .pending => 1 | .done => 2) := by
  have hshut := Bool.toNat_le s.shutoff
  have hcut := Bool.toNat_le (anyCut s)
  have hqueue := Bool.toNat_le (!s.queue.records.isEmpty)
  have hcode : s.cmd.state.code ≤ 2 := by cases s.cmd.state <;> decide
  have hbyte : (readWindow s 0x04).toNat = s.shutoff.toNat + 2 * (anyCut s).toNat
      + 4 * (!s.queue.records.isEmpty).toNat + 8 * s.cmd.state.code := by
    rw [readWindow_direct hr (by decide)]
    refine (BitVec.toNat_ofNat ..).trans ?_
    simp only [bit_eq]
    omega
  have hbit1 : (readWindow s 0x04).getLsbD 1 = anyCut s := getLsbD_eq_of_toNat (by omega)
  have hbit2 : (readWindow s 0x04).getLsbD 2 = !s.queue.records.isEmpty := getLsbD_eq_of_toNat (by omega)
  refine ⟨getLsbD_eq_of_toNat (by omega), by rw [hbit1, anyCut_iff], by rw [hbit2]; simp, ?_⟩
  have hstate : (readWindow s 0x04).toNat / 8 = s.cmd.state.code := by omega
  rw [hstate]
  cases s.cmd.state <;> rfl

/-- CMD_RESULT (Table 10-1). -/
theorem readWindow_result : (readWindow s 0x0A).toNat = resultCode s.cmd.result := by
  rw [readWindow_direct hr (by decide)]
  change s.cmd.result.code.toNat = _
  cases s.cmd.result <;> rfl

/-- QUEUE_COUNT (R64). -/
theorem readWindow_count (h : s.queue.records.length ≤ 64) : (readWindow s 0x0B).toNat = s.queue.records.length := by
  rw [readWindow_direct hr (by decide)]
  exact (BitVec.toNat_ofNat _ 8).trans (Nat.mod_eq_of_lt (by omega))

/-- INJ_RESULT (R153). -/
theorem readWindow_injResult : (readWindow s 0x1B).toNat =
    (match s.inj.result with | .accepted => 0 | .refusedSource => 1 | .refusedOff => 2) := by
  rw [readWindow_direct hr (by decide)]
  change s.inj.result.code.toNat = _
  cases s.inj.result <;> rfl

/-- An unassigned address returns 0 (R163, R178). -/
theorem readWindow_unassigned {a : Address} (ha : a.toNat = 0x0F ∨ (0x1C ≤ a.toNat ∧ a.toNat < 0x20)
    ∨ (0x2C ≤ a.toNat ∧ a.toNat < 0x40) ∨ 0x74 ≤ a.toNat) : readWindow s a = 0 := by
  have hdirect : ∀ a : Address, (a.toNat = 0x0F ∨ (0x1C ≤ a.toNat ∧ a.toNat < 0x20)
      ∨ (0x2C ≤ a.toNat ∧ a.toNat < 0x40) ∨ 0x74 ≤ a.toNat) → Direct a := by decide
  rw [readWindow_direct hr (hdirect a ha)]
  unfold registerByte
  split
  case h_24 => rfl
  all_goals omega

/-! ## The staging area and the latched fields -/

omit hr in
theorem stagingIndex_ofNat (k : Fin 32) : stagingIndex (BitVec.ofNat 7 (0x40 + k.val)) = some k := by
  revert k
  decide

/-- The head window above byte 0 (R72). -/
theorem readWindow_headLatch {k : Fin 12} (hk : k.val ≠ 0) :
    readWindow s (BitVec.ofNat 7 (0x20 + k.val)) = s.queue.headLatch[k] := by
  have haddr : ∀ k : Fin 12, stagingIndex (BitVec.ofNat 7 (0x20 + k.val)) = none
      ∧ bitmapAt (BitVec.ofNat 7 (0x20 + k.val)).toNat = none
      ∧ ¬ (0x10 ≤ (BitVec.ofNat 7 (0x20 + k.val)).toNat ∧ (BitVec.ofNat 7 (0x20 + k.val)).toNat < 0x14)
      ∧ (BitVec.ofNat 7 (0x20 + k.val)).toNat = 0x20 + k.val := by decide
  obtain ⟨hstaging, hbitmap, htime, hnat⟩ := haddr k
  rw [readWindow_head hr hstaging hbitmap htime (by omega), hnat, Nat.add_sub_cancel_left, headByte, if_neg hk]
  simp

/-- A byte above the lowest of a latched field comes from the latch (R164). -/
theorem readWindow_latch {a : Address} {b : Bitmap} {k : Nat} (hs : stagingIndex a = none)
    (hb : bitmapAt a.toNat = some (b, k + 1)) : readWindow s a = byteOf (bitmapLatch b s) (k + 1) := by
  rw [readWindow_bitmap hr hs hb]
  rfl

theorem readWindow_timeLatch {a : Address} {k : Nat} (hs : stagingIndex a = none) (hb : bitmapAt a.toNat = none)
    (ha : a.toNat = 0x11 + k) (hk : k < 3) : readWindow s a = byteOf s.timebase.readLatch (k + 1) := by
  have hindex : a.toNat - 0x10 = k + 1 := by omega
  rw [readWindow_timestamp hr hs hb (by omega), hindex]
  rfl

/-- Every byte above the lowest of a latched field is the latch's (R72, R158, R164). -/
theorem readWindow_upper :
    readWindow s 0x13 ++ readWindow s 0x12 ++ readWindow s 0x11 = s.timebase.readLatch.extractLsb' 8 24
      ∧ (∀ k : Fin 12, k.val ≠ 0 → readWindow s (BitVec.ofNat 7 (0x20 + k.val)) = s.queue.headLatch[k])
      ∧ readWindow s 0x61 = s.latches.pin.extractLsb' 8 8 ∧ readWindow s 0x63 = s.latches.hold.extractLsb' 8 8
      ∧ readWindow s 0x65 = s.latches.demand.extractLsb' 8 8 ∧ readWindow s 0x67 = s.latches.cut.extractLsb' 8 8
      ∧ readWindow s 0x6B ++ readWindow s 0x6A ++ readWindow s 0x69 = s.latches.tripped.extractLsb' 8 24
      ∧ readWindow s 0x6F ++ readWindow s 0x6E ++ readWindow s 0x6D = s.latches.armed.extractLsb' 8 24
      ∧ readWindow s 0x73 ++ readWindow s 0x72 ++ readWindow s 0x71 = s.latches.channelState.extractLsb' 8 24 := by
  refine ⟨?_, fun k hk => readWindow_headLatch hr hk, ?_, ?_, ?_, ?_, ?_, ?_, ?_⟩
  · rw [readWindow_timeLatch hr (k := 2) (by decide) (by decide) (by decide) (by decide),
      readWindow_timeLatch hr (k := 1) (by decide) (by decide) (by decide) (by decide),
      readWindow_timeLatch hr (k := 0) (by decide) (by decide) (by decide) (by decide), byteOf_upper]
  · rw [readWindow_latch hr (b := .pin) (k := 0) (by decide) (by decide)]
    exact byteOf_setWidth_one _
  · rw [readWindow_latch hr (b := .hold) (k := 0) (by decide) (by decide)]
    exact byteOf_setWidth_one _
  · rw [readWindow_latch hr (b := .demand) (k := 0) (by decide) (by decide)]
    exact byteOf_setWidth_one _
  · rw [readWindow_latch hr (b := .cut) (k := 0) (by decide) (by decide)]
    exact byteOf_setWidth_one _
  · rw [readWindow_latch hr (b := .tripped) (k := 2) (by decide) (by decide),
      readWindow_latch hr (b := .tripped) (k := 1) (by decide) (by decide),
      readWindow_latch hr (b := .tripped) (k := 0) (by decide) (by decide)]
    exact byteOf_upper _
  · rw [readWindow_latch hr (b := .armed) (k := 2) (by decide) (by decide),
      readWindow_latch hr (b := .armed) (k := 1) (by decide) (by decide),
      readWindow_latch hr (b := .armed) (k := 0) (by decide) (by decide)]
    exact byteOf_upper _
  · rw [readWindow_latch hr (b := .channelState) (k := 2) (by decide) (by decide),
      readWindow_latch hr (b := .channelState) (k := 1) (by decide) (by decide),
      readWindow_latch hr (b := .channelState) (k := 0) (by decide) (by decide)]
    exact byteOf_upper _

/-! ## The loads -/

theorem hostRead_running (b : Byte) (f : State → State) : hostRead b f s = { f s with dataOut := some b } := by
  rw [hostRead_eq, hr]
  rfl

end

/-- The channel-state bitmap holds the state of channel c in bits 2c and 2c + 1 (R135). -/
theorem channelBits_code (s : State) (c : Fin 16) :
    (channelBits s).toNat / 4 ^ c.val % 4 = channelStateCode s.channels[c].state := by
  have hbit (j : Nat) (hj : j < 2) : (channelBits s).toNat.testBit (2 * c.val + j) =
      Nat.testBit s.channels[c].state.code j := by
    have hpack := packBits_bit 32
      (fun i => Nat.testBit s.channels[(⟨i.val / 2, by omega⟩ : Fin 16)].state.code (i.val % 2))
      ⟨2 * c.val + j, by omega⟩
    have hdiv : (2 * c.val + j) / 2 = c.val := by omega
    have hmod : (2 * c.val + j) % 2 = j := by omega
    simp only [hdiv, hmod] at hpack
    exact hpack
  have hcode : s.channels[c].state.code < 2 ^ 2 := by cases s.channels[c].state <;> decide
  have hfield : (channelBits s).toNat / 2 ^ (2 * c.val) % 2 ^ 2 = s.channels[c].state.code := by
    refine Nat.eq_of_testBit_eq fun j => ?_
    rw [Nat.testBit_mod_two_pow, Nat.testBit_div_two_pow, Nat.add_comm j]
    by_cases hj : j < 2
    · rw [decide_eq_true hj, Bool.true_and, hbit j hj]
    · rw [decide_eq_false hj, Bool.false_and]
      exact (Nat.testBit_lt_two_pow (hcode.trans_le (Nat.pow_le_pow_right (by decide) (by omega)))).symm
  rw [pow_mul] at hfield
  refine hfield.trans ?_
  cases s.channels[c].state <;> rfl

/-- What a read of head byte 0 loads and returns (R72, Table 4-3). -/
theorem headLatchLoad_reads {s : State} (hr : s.inReset = false) : ∃ h : Vector Byte 12,
    exec .headLatchLoad s = .next { s with queue := { s.queue with headLatch := h }, dataOut := some h[0] }
      ∧ (s.queue.records = [] → h = Vector.replicate 12 0)
      ∧ ∀ (r : Record) (rest : List Record), s.queue.records = r :: rest →
          h[1] ++ h[0] = r.seq ∧ h[5] ++ h[4] ++ h[3] ++ h[2] = r.timestamp
            ∧ h[6].toNat = recordKindCode r.body.kind + 16 * r.body.severity.toNat
            ∧ h[7].toNat = r.lossBefore.toNat + 2 * r.body.byRelease.toNat + 4 * r.body.valuePresent.toNat
                + 8 * r.body.fromTimer.toNat
            ∧ h[8].toNat = recordSubject r.body.kind ∧ h[10] ++ h[9] = r.body.value
            ∧ h[11].toNat = r.body.aux.toNat := by
  refine ⟨headImage s, by rw [exec, execHeadLatchLoad, hostRead_running hr]; rfl, fun hq => by simp only [headImage, hq],
    fun r rest hq => ?_⟩
  have himage : headImage s = recordImage r := by simp only [headImage, hq]
  rw [himage]
  exact ⟨halfOf_bytes _, wordOf_bytes _, recordImage_byte_6 r, recordImage_byte_7 r, recordKind_subject _,
    halfOf_bytes _, recordImage_byte_11 r⟩

/-- What a read of 0x10 loads and returns (R158). -/
theorem timestampLatchLoad_reads {s : State} (hr : s.inReset = false) : exec .timestampLatchLoad s = .next { s with
    timebase := { s.timebase with readLatch := s.timebase.timestamp }
    dataOut := some (s.timebase.timestamp.setWidth 8) } := by
  rw [exec, execTimestampLatchLoad, hostRead_running hr, byteOf_zero]
  rfl

/-- What a read of a bitmap's lowest address loads and returns (R164). -/
theorem bitmapLatchLoad_reads {s : State} (hr : s.inReset = false) (b : Bitmap) : exec (.bitmapLatchLoad b) s =
    .next { s with latches := s.latches.load b s, dataOut := some ((liveBitmap b s).setWidth 8) } := by
  rw [exec, execBitmapLatchLoad, hostRead_running hr, byteOf_zero]
  rfl

theorem lineBits_bit (f : Line → Bool) (s : State) (l : Fin 16) : (lineBits f s).getLsbD l.val = f s.lines[l] :=
  packBits_bit 16 _ l

theorem lineBits_byte (f : Line → Bool) (s : State) :
    ((lineBits f s).setWidth 32).setWidth 8 = (lineBits f s).setWidth 8 :=
  BitVec.setWidth_setWidth_of_le _ (by decide)

theorem trippedBits_bit (s : State) (n : Fin 32) : (trippedBits s).getLsbD n.val = true ↔ s.entries[n].state = .tripped
    ∨ s.entries[n].state = .pendingClear ∨ s.entries[n].state = .held := by
  rw [trippedBits, packBits_bit]
  cases s.entries[n].state <;> decide

theorem armedBits_bit (s : State) (n : Fin 32) : (armedBits s).getLsbD n.val = true ↔ s.entries[n].state ≠ .disarmed := by
  rw [armedBits, packBits_bit, bne_iff_ne]

/-! ## Read cycles -/

/-- R144: what an event that reaches the port finds is what the model takes first. -/
theorem portTaken_eq (s : State) : portTaken s = takePortCommand s := by
  rw [portTaken, waitingTaken_cons _ (t := serveClearPortCounts s) rfl]
  rfl

/-- What a read finds: a counter is read behind the command that waits with the port (R144). -/
theorem beforeRead_eq {s : State} (hr : s.inReset = false) (a : Address) :
    beforeRead a s = if 0x14 ≤ a.toNat ∧ a.toNat < 0x18 then portTaken s else s := by
  rw [portTaken_eq, beforeRead, hr]
  simp [isCounter]

theorem beforeRead_inReset (a : Address) (s : State) : (beforeRead a s).inReset = s.inReset := by
  unfold beforeRead
  split
  · rcases takePortCommand_cases s with ⟨-, h⟩ | ⟨-, h⟩ <;> rw [h]
    rfl
  · rfl

theorem loadLatch_inReset (a : Address) (s : State) : (loadLatch a s).inReset = s.inReset := by
  unfold loadLatch
  split
  · rfl
  · rfl
  · split <;> rfl

/-- The lowest addresses of the bitmaps (R164). -/
theorem bitmapAt_lowest {k : Nat} {b : Bitmap} (h : bitmapAt k = some (b, 0)) :
    k ∈ [0x60, 0x62, 0x64, 0x66, 0x68, 0x6C, 0x70] := by
  unfold bitmapAt at h
  split at h <;> simp at h ⊢

/-- A read of another location than the lowest of a latched field loads nothing (R164). -/
theorem loadLatch_other {a : Address}
    (ha : ∀ x ∈ [(0x10 : Address), 0x20, 0x60, 0x62, 0x64, 0x66, 0x68, 0x6C, 0x70], a ≠ x) (s : State) :
    loadLatch a s = s := by
  have hne : a.toNat ∉ [0x10, 0x20, 0x60, 0x62, 0x64, 0x66, 0x68, 0x6C, 0x70] := fun h => by
    have hmem := List.mem_map_of_mem (f := BitVec.ofNat 7) h
    rw [BitVec.ofNat_toNat, BitVec.setWidth_eq] at hmem
    exact ha a hmem rfl
  unfold loadLatch
  split
  · next h => rw [h] at hne; exact absurd (by decide) hne
  · next h => rw [h] at hne; exact absurd (by decide) hne
  · split
    · next h => exact absurd (List.mem_cons_of_mem _ (List.mem_cons_of_mem _ (bitmapAt_lowest h))) hne
    · rfl

/-- A read cycle outside power-on reset: the latch of the address is loaded and the byte driven (R162). -/
theorem readCycle_running {s u : State} {a : Address} (hr : s.inReset = false) (hu : u = beforeRead a s) :
    readCycle a s = { loadLatch a u with dataOut := some (readWindow u a) } := by
  subst hu
  exact hostRead_running ((beforeRead_inReset a s).trans hr) _ _

/-- A read row is the read cycle of its address. -/
theorem busEvent_of_row {s : State} {a : Address} {b : Byte} {f : State → State} (v : Byte)
    (hb : beforeRead a s = s) (hw : readWindow s a = b) (hf : loadLatch a s = f s) :
    busEvent true true false a v s = hostRead b f s := by
  change hostRead (readWindow (beforeRead a s) a) (loadLatch a) (beforeRead a s) = hostRead b f s
  rw [hb, hw, hostRead_eq, hostRead_eq, hf]

/-- In a read cycle D7 to D0 drive what the cycle has returned (R162, R181). -/
theorem dataPins_read {s : State} (hr : s.inReset = false) : dataPins true true false s = s.dataOut := by
  rw [dataPins, hr]
  rfl

/-- With CS# high, or with both strobes high, nothing drives D7 to D0 (R162, R181). -/
theorem dataPins_none {cs rd wr : Bool} (h : busCycle cs rd wr = .none) (s : State) : dataPins cs rd wr s = none := by
  rw [dataPins, h]
  split <;> rfl

end Sys2Proof.Reads
end

section
/-! PROOFS. The reads of the window, as O56 states them. -/

namespace Sys2Proof.Latches

open Sys2Proof.Machine Sys2Proof.Claims Sys2Proof.Reads

section
variable {s : State} (hr : s.inReset = false)
include hr

/-- The nine rows that load a latch are the read cycles of their addresses (R164). -/
theorem latchRows (v : Byte) : ∀ p ∈ [((0x10 : Address), Instr.timestampLatchLoad), (0x20, .headLatchLoad),
    (0x60, .bitmapLatchLoad .pin), (0x62, .bitmapLatchLoad .hold), (0x64, .bitmapLatchLoad .demand),
    (0x66, .bitmapLatchLoad .cut), (0x68, .bitmapLatchLoad .tripped), (0x6C, .bitmapLatchLoad .armed),
    (0x70, .bitmapLatchLoad .channelState)],
    busRow true true false p.1 v s = some p.2 ∧ exec p.2 s = .next (busEvent true true false p.1 v s) := by
  have hbefore (a : Address) (ha : ¬ (0x14 ≤ a.toNat ∧ a.toNat < 0x18)) : beforeRead a s = s := by
    rw [beforeRead_eq hr, if_neg ha]
  have hbitmap (a : Address) (b : Bitmap) (hs : stagingIndex a = none) (hb : bitmapAt a.toNat = some (b, 0))
      (ha : ¬ (0x14 ≤ a.toNat ∧ a.toNat < 0x18)) (hl : loadLatch a s = loadBitmap b s) :
      exec (.bitmapLatchLoad b) s = .next (busEvent true true false a v s) := by
    rw [busEvent_of_row v (hbefore a ha) (readWindow_bitmap hr hs hb) hl]
    rfl
  simp only [List.forall_mem_cons, List.not_mem_nil, false_imp_iff, implies_true, and_true]
  refine ⟨⟨rfl, ?_⟩, ⟨rfl, ?_⟩, ⟨rfl, ?_⟩, ⟨rfl, ?_⟩, ⟨rfl, ?_⟩, ⟨rfl, ?_⟩, ⟨rfl, ?_⟩, ⟨rfl, ?_⟩, ⟨rfl, ?_⟩⟩
  · rw [busEvent_of_row v (hbefore _ (by decide)) (readWindow_timestamp hr (by decide) (by decide) (by decide)) rfl]
    rfl
  · rw [busEvent_of_row v (hbefore _ (by decide)) (readWindow_head hr (by decide) (by decide) (by decide) (by decide)) rfl]
    rfl
  all_goals exact hbitmap _ _ (by decide) (by decide) (by decide) rfl

/-- A read of any location: what it finds, what it returns, and what the strobes drive (R162, R181). -/
theorem read_drives (a : Address) (v : Byte) {u : State}
    (hu : u = if 0x14 ≤ a.toNat ∧ a.toNat < 0x18 then portTaken s else s) :
    ((∀ x ∈ [(0x10 : Address), 0x20, 0x60, 0x62, 0x64, 0x66, 0x68, 0x6C, 0x70], a ≠ x) →
        busEvent true true false a v s = { u with dataOut := some (readWindow u a) })
      ∧ dataPins true true false (busEvent true true false a v s) = some (readWindow u a)
      ∧ ∀ rd wr : Bool,
        busEvent false rd wr a v s = s ∧ busRow false rd wr a v s = none ∧ dataPins false rd wr s = none
          ∧ busEvent true false false a v s = s ∧ dataPins true false false s = none := by
  rw [← beforeRead_eq hr] at hu
  have hcycle : busEvent true true false a v s = { loadLatch a u with dataOut := some (readWindow u a) } :=
    readCycle_running hr hu
  have hrun : (busEvent true true false a v s).inReset = false := by
    rw [hcycle]
    exact (loadLatch_inReset a u).trans (hu ▸ (beforeRead_inReset a s).trans hr)
  refine ⟨fun ha => ?_, ?_, fun rd wr => ⟨rfl, rfl, dataPins_none rfl s, rfl, dataPins_none rfl s⟩⟩
  · rw [hcycle, loadLatch_other ha]
  · rw [dataPins_read hrun, hcycle]

end

/-- Settles O56: the loads of the latches, then the locations one by one, then the read cycle. -/
theorem latchesLoadFromTheLiveField : Obligations.LatchesLoadFromTheLiveField := by
  intro s hr
  refine ⟨⟨headLatchLoad_reads hr, timestampLatchLoad_reads hr, fun b => ?_⟩,
    ⟨readWindow_direct hr (a := 0x00) (by decide), readWindow_direct hr (a := 0x01) (by decide),
      readWindow_direct hr (a := 0x02) (by decide)⟩,
    readWindow_control hr, readWindow_status hr,
    ⟨readWindow_direct hr (a := 0x05) (by decide), readWindow_direct hr (a := 0x06) (by decide)⟩,
    ⟨readWindow_direct hr (a := 0x07) (by decide), readWindow_direct hr (a := 0x08) (by decide),
      readWindow_direct hr (a := 0x09) (by decide), readWindow_result hr⟩,
    ⟨readWindow_count hr, readWindow_direct hr (a := 0x0C) (by decide)⟩,
    ⟨?_, ?_⟩,
    ⟨readWindow_direct hr (a := 0x14) (by decide), readWindow_direct hr (a := 0x15) (by decide),
      readWindow_direct hr (a := 0x16) (by decide), readWindow_direct hr (a := 0x17) (by decide)⟩,
    ⟨readWindow_direct hr (a := 0x18) (by decide), readWindow_injResult hr⟩,
    fun k => readWindow_staging hr (stagingIndex_ofNat k), readWindow_upper hr, fun a => readWindow_unassigned hr,
    fun p hp v => latchRows hr v p hp, fun u a v => read_drives hr a v⟩
  · refine ⟨_, bitmapLatchLoad_reads hr b, rfl, ?_⟩
    cases b with
    | pin => exact ⟨rfl, congrArg some (lineBits_byte _ s), lineBits_bit _ s⟩
    | hold => exact ⟨rfl, congrArg some (lineBits_byte _ s), lineBits_bit _ s⟩
    | demand => exact ⟨rfl, congrArg some (lineBits_byte _ s), lineBits_bit _ s⟩
    | cut => exact ⟨rfl, congrArg some (lineBits_byte _ s), lineBits_bit _ s⟩
    | tripped => exact ⟨rfl, rfl, trippedBits_bit s⟩
    | armed => exact ⟨rfl, rfl, armedBits_bit s⟩
    | channelState => exact ⟨rfl, rfl, channelBits_code s⟩
  · rw [readWindow_direct hr (a := 0x0E) (by decide), readWindow_direct hr (a := 0x0D) (by decide)]
    exact halfOf_bytes _
  · rw [readWindow_direct hr (a := 0x1A) (by decide), readWindow_direct hr (a := 0x19) (by decide)]
    exact halfOf_bytes _

end Sys2Proof.Latches
end

section
/-! PROOFS. What a step can do to the lines and to the contributions, said once: the events that reach the output unit or
the contribution of an entry, and that every command is a chain of them (`exec_events`). The laws of the output unit (O8)
and of the contributions (O10) are each kept by every one of these events. -/

namespace Sys2Proof.OutputEvents

open Sys2Proof.Machine Sys2Proof.Safety Sys2Proof.Claims Sys2Proof.Images Sys2Proof.WatchTable Sys2Proof.Contributions
  Sys2Proof.Handling Sys2Proof.TableCommands Sys2Proof.Edges Sys2Proof.Evaluations

/-! ## What the two laws look at -/

/-- What the laws of the output unit and of the contributions are about. -/
structure View where
  entries : Vector Entry 32
  lines : Vector Line 16
  exclusive : Vector Bool 8
  oe : Bool
  shutoff : Bool
  withdrawing : Bool

/-- What the two laws see of a state. -/
def view (s : State) : View where
  entries := s.entries
  lines := s.lines
  exclusive := s.exclusive
  oe := s.oe
  shutoff := s.shutoff
  withdrawing := withdrawalsWait s

theorem view_eq_iff {s t : State} : view t = view s ↔
    t.entries = s.entries ∧ t.lines = s.lines ∧ t.exclusive = s.exclusive ∧ t.oe = s.oe ∧ t.shutoff = s.shutoff
      ∧ withdrawalsWait t = withdrawalsWait s := by
  simp only [view, View.mk.injEq]

/-- The two entries agree in what the contribution law goes by (R85, R86, R88). -/
structure Alike (e e' : Entry) : Prop where
  output : e'.cfg.output = e.cfg.output
  shaping : e'.cfg.shaping = e.cfg.shaping
  loaded : e'.shape.loaded = e.shape.loaded
  phase : e'.phase = e.phase
  family : e'.state.inFamily = e.state.inFamily
  disarmed : e'.state = .disarmed ↔ e.state = .disarmed

theorem Alike.refl (e : Entry) : Alike e e := ⟨rfl, rfl, rfl, rfl, rfl, .rfl⟩

/-! ## The events -/

/-- A trip edge leads into the tripped family, a clear edge out of it (R14). -/
def entersFamily : Direction → Bool
  | .trip => true
  | .clear => false

/-- An event that reaches the output unit or the watch table, or one that reaches neither (`quiet`, which may also move an
entry in what is no part of its contribution). -/
inductive Event : State → State → Prop where
  | quiet {s t : State} (h : ∀ n : Fin 32, Alike s.entries[n] t.entries[n])
      (k : view t = { view s with entries := t.entries }) : Event s t
  | writeLine (s : State) : Event s (serveWriteLine s)
  | silence (s : State) : Event s (serveSilence s)
  | override (s : State) : Event s (serveOverride s)
  | resume (s : State) : Event s (serveResume s)
  | outputEnable (b : Bool) (s : State) : Event s (refreshPins { s with oe := b })
  | cutoff (s : State) : Event s (assertShutoff s)
  | release (s : State) : Event s { s with shutoff := false }
  | edge (n : Fin 32) {st : EntryState} {g : Edge} {s : State} (hw : withdrawalsWait s = false)
      (hst : st ≠ .disarmed) (hf : st.inFamily = entersFamily g.dir) : Event s (moveWithEdge n st g s)
  | expiry {n : Fin 32} {s : State} (hw : withdrawalsWait s = false) (hx : s.entries[n].shape = .expired) :
      Event s (shapingExpiry n s)
  | disarm (n : Fin 32) {s : State} (hw : withdrawalsWait s = false) :
      Event s (withdraw n (modEntry n disarmed s))
  | store {n : Fin 32} {c : EntryConfig} {s : State} (hw : withdrawalsWait s = false)
      (hfix : s.entries[n].state ≠ .disarmed → FixedFieldsEqual s.entries[n].cfg c) :
      Event s (modEntry n (fun e => { e with cfg := c }) s)
  | arm {n : Fin 32} {s : State} (limit : Half) (hw : withdrawalsWait s = false)
      (hd : s.entries[n].state = .disarmed) : Event s (modEntry n (Entry.armTime limit) s)
  | restartEngine (s : State) : Event s (restartEngine s)
  | restartOutputs (ch port irq rec : Bool) {s : State} (hw : withdrawalsWait s = true) :
      Event s (withEngine (.restarting true ch port irq rec) (restartOutputs s))
  | powerOn (s : State) : Event s (powerOn s)

/-- A chain of events. -/
def Events : State → State → Prop := Relation.ReflTransGen Event

/-- What every event keeps a chain of events keeps. -/
theorem Events.keeps {P : State → Prop} (hP : ∀ s t : State, Event s t → P s → P t) {s t : State} (h : Events s t)
    (hs : P s) : P t := by
  induction h with
  | refl => exact hs
  | tail _ e ih => exact hP _ _ e ih

theorem Events.refl (s : State) : Events s s := Relation.ReflTransGen.refl

theorem Events.trans {s t u : State} (h : Events s t) (k : Events t u) : Events s u :=
  Relation.ReflTransGen.trans h k

theorem Event.events {s t : State} (h : Event s t) : Events s t := Relation.ReflTransGen.single h

/-- Events of the other blocks. -/
theorem Events.aside {s t : State} (h : view t = view s) : Events s t := by
  have he : t.entries = s.entries := (view_eq_iff.mp h).1
  exact (Event.quiet (fun n => he ▸ .refl _) (by rw [h, he]; rfl)).events

/-- Events of the other blocks behind a chain. -/
theorem Events.before {s t u : State} (h : Events s t) (k : view u = view t) : Events s u := h.trans (.aside k)

/-- Events of the other blocks in front of a chain. -/
theorem Events.after {s t u : State} (k : Events t u) (h : view t = view s) : Events s u := (Events.aside h).trans k

/-- A change of one entry that leaves its contribution alone. -/
theorem events_modEntry {n : Fin 32} {f : Entry → Entry} {s : State} (h : Alike s.entries[n] (f s.entries[n])) :
    Events s (modEntry n f s) := by
  refine Event.events (.quiet (t := Machine.modEntry n f s) (fun m => ?_) rfl)
  by_cases hm : m = n
  · subst hm
    rwa [modEntry_self]
  · rw [modEntry_entries, get_set_ne _ _ hm]
    exact .refl _

/-! ## Events of the other blocks -/

@[simp] theorem view_complete (r : Result) (s : State) : view (complete r s) = view s := rfl

@[simp] theorem view_request (f : Flag) (s : State) : view (request f s) = view s := rfl

@[simp] theorem view_requestIf (b : Bool) (f : Flag) (s : State) : view (requestIf b f s) = view s := by
  cases b <;> rfl

@[simp] theorem view_modPort (f : Port → Port) (s : State) : view (modPort f s) = view s := rfl

@[simp] theorem view_modChannel (c : Fin 16) (f : Channel → Channel) (s : State) : view (modChannel c f s) = view s := rfl

@[simp] theorem view_takeChannelCommand (c : Fin 16) (s : State) : view (takeChannelCommand c s) = view s := by
  rw [takeChannelCommand_event c s]
  rfl

@[simp] theorem view_takePortCommand (s : State) : view (takePortCommand s) = view s := by
  rcases takePortCommand_cases s with ⟨-, h⟩ | ⟨-, h⟩ <;> rw [h]
  rfl

@[simp] theorem view_takeArrival (fromPort : Bool) (c : Fin 16) (raw : Half) (status : SampleStatus) (s : State) :
    view (takeArrival fromPort c raw status s).2 = view s := by
  rw [takeArrival_event fromPort c raw status s]
  rfl

@[simp] theorem view_channelTick (c : Fin 16) (s : State) : view (channelTick c s) = view s := by
  rw [channelTick_event c s]
  rfl

@[simp] theorem view_takeRecord (b : RecordBody) (s : State) : view (takeRecord b s) = view s := by
  obtain ⟨q, f, h⟩ := takeRecord_frame b s
  rw [h]
  rfl

@[simp] theorem view_takeWaiting (s : State) : view (takeWaiting s) = view s := by
  obtain ⟨q, f, h⟩ := takeWaiting_frame s
  rw [h]
  rfl

/-- An engine that waits for no withdrawals and takes up other work. -/
theorem view_withEngine {e : Engine} {s : State} (h : withdrawalsWait (withEngine e s) = withdrawalsWait s) :
    view (withEngine e s) = view s :=
  view_eq_iff.mpr ⟨rfl, rfl, rfl, rfl, rfl, h⟩

/-- The choice of a free engine (R34) reaches no line and no entry. -/
@[simp] theorem view_chooseWork (s : State) : view (chooseWork s) = view s := by
  have hwait : withdrawalsWait (chooseWork s) = withdrawalsWait s := by
    rcases chooseWork_cases s with ⟨-, h⟩ | ⟨-, -, -, h⟩ | ⟨c, he, -, h⟩ | ⟨c, item, he, -, -, -, h⟩ <;> rw [h]
    · simp only [withdrawalsWait, takeClaim_engine, he]
    · simp only [withdrawalsWait, takeItem, he]
  exact view_eq_iff.mpr ⟨by simp, by simp, by simp, by simp, by simp, hwait⟩

/-- The end of a work item that leaves no withdrawals to be taken. -/
theorem view_comeFree {s : State} (h : withdrawalsWait s = false) : view (comeFree s) = view s := by
  rw [comeFree, view_chooseWork]
  exact view_eq_iff.mpr ⟨rfl, rfl, rfl, rfl, rfl, h.symm⟩

theorem view_endService {s : State} (r : Result) (h : withdrawalsWait s = false) : view (endService r s) = view s :=
  view_comeFree (s := complete r s) h

@[simp] theorem view_endInterval (s : State) : view (endInterval s) = view s := by
  unfold endInterval
  split <;> rfl

@[simp] theorem view_stampTick (s : State) : view (stampTick s) = view s := by
  unfold stampTick
  split <;> rfl

@[simp] theorem view_channelTicks (s : State) : view (channelTicks s) = view s := by
  obtain ⟨t, ht, h⟩ := channelTicks_eq s
  rw [h, view_chooseWork, ht]
  rfl

@[simp] theorem view_endFrame (s : State) : view (endFrame s) = view s := by
  unfold endFrame
  split <;> simp

@[simp] theorem view_takeOutcome (o : ArrivalOutcome) (s : State) : view (takeOutcome o s) = view s := by
  cases o <;> rfl

@[simp] theorem view_settleTaken {c : Fin 16} {item : Item} {s : State} (h : withdrawalsWait s = false) :
    view (settleTaken c item s) = view s := by
  have hsettle : view (settle c item (takeChannelCommand c s)).2 = view s := by
    rw [settle_work c item _]
    exact view_takeChannelCommand c s
  obtain ⟨he, hl, hx, ho, hs, -⟩ := view_eq_iff.mp hsettle
  exact view_eq_iff.mpr ⟨he, hl, hx, ho, hs, h.symm⟩

/-! ## The output unit -/

/-- A READ_LINE reaches the staging area only (R104). -/
@[simp] theorem view_serveReadLine (s : State) : view (serveReadLine s) = view s := by
  unfold serveReadLine
  split <;> rfl

/-- The line command that waits is one of the events (R84). -/
theorem events_takeLineCommand (s : State) : Events s (takeLineCommand s) := by
  unfold takeLineCommand
  split
  · exact .aside (view_serveReadLine s)
  split
  · exact (Event.writeLine s).events
  split
  · exact (Event.silence s).events
  split
  · exact (Event.override s).events
  split
  · exact (Event.resume s).events
  · exact .refl s

theorem events_writeOe (b : Bool) (s : State) : Events s (writeOe b s) := by
  unfold writeOe
  split
  · exact .refl s
  · exact (events_takeLineCommand s).trans (Event.outputEnable b _).events

/-! ## The engine -/

theorem withdrawalsWait_of_entryWork {n : Fin 32} {s t : State} (h : EntryWork n s t) :
    withdrawalsWait t = withdrawalsWait s := by
  rw [h.1]
  rfl

/-- A move of an entry without an edge keeps it in the tripped family or out of it (R45 to R51). -/
theorem moved_alike {e : Entry} {active : Bool} (h : (moved e active).2.1 = none) :
    Alike e (movedTo (moved e active).1 (moved e active).2.2 e) := by
  have hstate : (moved e active).1.inFamily = e.state.inFamily
      ∧ ((moved e active).1 = .disarmed ↔ e.state = .disarmed) := by
    revert h
    cases hst : e.state <;> cases active <;> simp only [moved, hst]
    case normal.true | tripped.false => split_ifs <;> simp [EntryState.inFamily]
    all_goals simp [EntryState.inFamily]
  obtain ⟨hfamily, hdisarmed⟩ := hstate
  unfold movedTo
  split <;> exact ⟨rfl, rfl, rfl, rfl, hfamily, hdisarmed⟩

/-- A move with an edge is into the tripped family or out of it (R14, R45 to R51). -/
theorem moved_edge {e : Entry} {active : Bool} {dir : Direction} (h : (moved e active).2.1 = some dir) :
    (moved e active).1 ≠ .disarmed ∧ (moved e active).1.inFamily = entersFamily dir := by
  revert h
  cases hst : e.state <;> cases active <;> simp only [moved, hst]
  case normal.true =>
    split
    · rintro ⟨⟩
      decide
    · nofun
  case tripped.false =>
    split
    · nofun
    split
    · rintro ⟨⟩
      decide
    · nofun
  all_goals nofun

section
variable {s : State} (hw : withdrawalsWait s = false)
include hw

theorem events_moveWithEdge (n : Fin 32) {st : EntryState} {g : Edge} {dir : Direction} (hst : st ≠ .disarmed)
    (hg : g.dir = dir) (hf : st.inFamily = entersFamily dir) : Events s (moveWithEdge n st g s) :=
  (Event.edge n hw hst (hg ▸ hf)).events

theorem events_transition (n : Fin 32) (active : Bool) (v : Option Half) : Events s (transition n active v s) := by
  rw [transition_eq]
  split
  · next h => exact events_modEntry (moved_alike h)
  · next dir h => exact events_moveWithEdge hw n (moved_edge h).1 rfl (moved_edge h).2

theorem events_handleInput (n : Fin 32) (limit : Half) (active : Bool) (v : Option Half) :
    Events s (handleInput n limit active v s) := by
  have input : Events s (modEntry n (takesInput limit active v) s) := events_modEntry ⟨rfl, rfl, rfl, rfl, rfl, .rfl⟩
  exact input.trans (events_transition (s := modEntry n (takesInput limit active v) s) hw n active v)

theorem events_handleEntry (n : Fin 32) (input : EvalInput) : Events s (handleEntry n input s) := by
  cases input with
  | good v => exact events_handleInput hw n _ _ _
  | fault =>
    by_cases hi : s.entries[n].state = .inhibited
    · rw [handleEntry, handleFault_of_held (.inl hi)]
      exact events_modEntry ⟨rfl, rfl, rfl, rfl, rfl, .rfl⟩
    rw [handleEntry]
    cases hp : s.entries[n].cfg.faultPolicy with
    | hold =>
      rw [handleFault_of_held (.inr hp)]
      exact events_modEntry ⟨rfl, rfl, rfl, rfl, rfl, .rfl⟩
    | trip =>
      rw [(handleFault_of_policy hi).1 hp]
      exact events_handleInput hw n _ _ _
    | clear =>
      rw [(handleFault_of_policy hi).2 hp]
      exact events_handleInput hw n _ _ _

theorem events_serveQualification (n : Fin 32) : Events s (serveQualification n s) := by
  have unload : Events s (modEntry n (fun e => { e with qual := .unloaded }) s) :=
    events_modEntry ⟨rfl, rfl, rfl, rfl, rfl, .rfl⟩
  unfold serveQualification
  split
  · exact events_modEntry ⟨rfl, rfl, rfl, rfl, rfl, .rfl⟩
  split
  · unfold qualificationExpiry
    dsimp only
    split
    · exact unload.trans (events_moveWithEdge (s := modEntry n _ s) hw n (st := .tripped) nofun rfl rfl)
    · exact unload.trans (events_moveWithEdge (s := modEntry n _ s) hw n (st := .normal) nofun rfl rfl)
    all_goals exact unload
  · exact .refl s

theorem events_handleQualification (n : Fin 32) : Events s (handleQualification n s) := by
  have hserved := events_serveQualification hw n
  have hwait : withdrawalsWait (serveQualification n s) = false := by
    rw [← hw]
    unfold serveQualification
    split
    · rfl
    · split
      · exact withdrawalsWait_of_entryWork (qualificationExpiry_work n s)
      · rfl
  unfold handleQualification
  dsimp only
  split
  · exact hserved.before (view_withEngine (e := .ending) hwait.symm)
  · exact hserved.before (view_comeFree hwait)

theorem events_serveShaping (n : Fin 32) : Events s (comeFree (serveShaping n s)) := by
  unfold serveShaping
  split
  · exact (events_modEntry ⟨rfl, rfl, rfl, rfl, rfl, .rfl⟩).before (view_comeFree hw)
  split
  · next hx =>
    exact (Event.expiry hw hx).events.before
      (view_comeFree ((withdrawalsWait_of_entryWork (shapingExpiry_work n s)).trans hw))
  · exact .aside (view_comeFree hw)

theorem events_releaseEntry (n : Fin 32) : Events s (releaseEntry n s) :=
  events_moveWithEdge hw n (st := .normal) nofun rfl rfl

theorem events_releaseAllFrom (k count : Nat) : Events s (releaseAllFrom k count s) := by
  unfold releaseAllFrom
  split
  · next n _ =>
    exact (events_releaseEntry hw n).before
      (view_withEngine (e := .releasing (n.val + 1) (count + 1))
        (hw.symm.trans (withdrawalsWait_of_entryWork (releaseEntry_work n s)).symm))
  · exact .aside (view_endService .ok hw)

end

/-- The withdrawals of RESTART wait in no other work item. -/
theorem withdrawalsWait_eq_false {s : State} (h : ∀ out ch port irq rec : Bool, s.engine ≠ .restarting out ch port irq rec) :
    withdrawalsWait s = false := by
  unfold withdrawalsWait
  split
  · next he => exact absurd he (h _ _ _ _ _)
  all_goals rfl

theorem events_releaseAllStep (s : State) : Events s (releaseAllStep s) := by
  unfold releaseAllStep
  split
  · next he =>
    split
    · exact events_releaseAllFrom (withdrawalsWait_eq_false (by rw [he]; nofun)) 0 0
    · exact .refl s
  · next he => exact events_releaseAllFrom (withdrawalsWait_eq_false (by rw [he]; nofun)) _ _
  all_goals exact .refl s

theorem events_releaseAllRest (fuel : Nat) (s : State) : Events s (releaseAllRest fuel s) := by
  induction fuel generalizing s with
  | zero => exact .refl s
  | succ fuel ih =>
    unfold releaseAllRest
    split
    · exact (events_releaseAllStep s).trans (ih _)
    all_goals exact .refl s

theorem events_evaluationStep (s : State) : Events s (evaluationStep s) := by
  unfold evaluationStep
  split
  · next he => exact .aside (view_settleTaken (withdrawalsWait_eq_false (by rw [he]; nofun)))
  · next c input k he =>
    have hw : withdrawalsWait s = false := withdrawalsWait_eq_false (by rw [he]; nofun)
    split
    · exact .aside (view_comeFree hw)
    · next n _ =>
      exact (events_handleEntry hw n input).before (view_withEngine (e := .handling c input (n.val + 1))
        (hw.symm.trans (withdrawalsWait_of_entryWork (handleEntry_work n input s)).symm))
  all_goals exact .refl s

theorem events_evaluationRest (fuel : Nat) (s : State) : Events s (evaluationRest fuel s) := by
  induction fuel generalizing s with
  | zero => exact .refl s
  | succ fuel ih =>
    unfold evaluationRest
    split
    · exact (events_evaluationStep s).trans (ih _)
    all_goals exact .refl s

theorem events_evaluationFinish (s : State) : Events s (evaluationFinish s) := by
  unfold evaluationFinish
  split
  · next he =>
    exact (events_evaluationRest 33 _).after (view_settleTaken (withdrawalsWait_eq_false (by rw [he]; nofun)))
  · exact events_evaluationRest 33 s
  all_goals exact .refl s

/-! ## Ticks -/

/-- A tick of a timer changes no contribution: it takes no timer from loaded to unloaded or back (R41). -/
theorem tick_alike (e : Entry) : Alike e e.tick :=
  ⟨rfl, rfl, tick_loaded e.shape, rfl, rfl, .rfl⟩

theorem events_bankTick (s : State) : Events s (bankTick s) := by
  rcases bankTick_cases s with ⟨-, h⟩ | ⟨-, h⟩ <;> rw [h]
  · exact .refl s
  · have htimers : Event s (bankTimers s) := by
      refine .quiet (fun n => ?_) (by simp only [view, withdrawalsWait, bankTimers])
      rw [bankTimers_entry]
      exact tick_alike _
    exact htimers.events.before (view_chooseWork _)

theorem events_tick (s : State) : Events s (tick s) := by
  rw [tick]
  exact ((events_bankTick _).after (by simp)).before (view_channelTicks _)

theorem events_clkin (s : State) : Events s (clkin s) := by
  unfold clkin
  split
  · exact .refl s
  split
  · exact events_tick s
  · exact .aside rfl

/-! ## RESTART -/

/-- A part of RESTART other than the engine's, the output unit's and the completion. -/
theorem view_restarting {out ch port irq rec : Bool} {s t : State} (he : s.engine = .restarting out ch port irq rec)
    (h : view t = view s) (ch' port' irq' rec' : Bool) :
    view (withEngine (.restarting out ch' port' irq' rec') t) = view s := by
  obtain ⟨hentries, hlines, hexclusive, hoe, hshutoff, -⟩ := view_eq_iff.mp h
  refine view_eq_iff.mpr ⟨hentries, hlines, hexclusive, hoe, hshutoff, ?_⟩
  simp only [withdrawalsWait, withEngine, he]

theorem events_restartPart (p : RestartPart) (s : State) : Events s (restartPart p s) := by
  rcases restartPart_cases p s with h | ⟨-, -, -, h⟩ | ⟨out, ch, port, irq, rec, he, ⟨-, rfl, h⟩ | ⟨-, -, h⟩ | ⟨-, -, h⟩
    | ⟨-, rfl, -, -, -, h⟩ | ⟨-, rfl, -, -, -, -, h⟩ | ⟨-, rfl, -, -, -, -, h⟩⟩ <;> rw [h]
  · exact .refl s
  · exact (Event.restartEngine s).events
  · have hwait : withdrawalsWait s = true := by simp only [withdrawalsWait, he, Bool.not_false]
    exact (Event.restartOutputs ch port irq rec hwait).events
  · exact .aside (view_restarting (t := restartChannels s) he rfl true port irq rec)
  · exact .aside (view_restarting (t := modPort Port.restarted s) he rfl ch true irq rec)
  · exact .aside (view_restarting (t := restartInterrupts s) he rfl true true true rec)
  · have hqueue : view (restartQueue s) = view s := by
      rw [restartQueue, view_takeRecord]
      exact view_takeWaiting s
    exact .aside (view_restarting he hqueue true true true true)
  · exact .aside (view_endService .ok (by simp only [withdrawalsWait, he, Bool.not_true]))

theorem events_restartAll (s : State) : Events s (restartAll s) := by
  have fold : ∀ (ps : List RestartPart) (u : State), Events u (ps.foldl (fun s p => restartPart p s) u) := by
    intro ps
    induction ps with
    | nil => exact fun u => .refl u
    | cons p ps ih => exact fun u => (events_restartPart p u).trans (ih _)
  exact fold _ s

/-! ## Host cycles -/

theorem events_hostWrite {f : State → State} (hf : ∀ u : State, Events u (f u)) (s : State) :
    Events s (hostWrite f s) := by
  unfold hostWrite
  split
  · exact .refl s
  · exact (hf _).after rfl

theorem events_hostRead {f : State → State} (hf : ∀ u : State, view (f u) = view u) (b : Byte) (s : State) :
    Events s (hostRead b f s) := by
  unfold hostRead
  split
  · exact .refl s
  · exact (Events.aside (hf s)).before rfl

theorem view_writePortEnable (b : Bool) (s : State) : view (writePortEnable b s) = view s := by
  unfold writePortEnable
  split <;> simp

theorem events_writeControl (v : Byte) (s : State) : Events s (writeControl v s) :=
  (events_writeOe _ s).before (view_writePortEnable _ _)

theorem view_writeCmdOp (op : Byte) (s : State) : view (writeCmdOp op s) = view s := by
  have hhand (c : Command) (u : State) : view (handToOwner c u) = view u := by
    unfold handToOwner
    split
    · exact view_chooseWork u
    · split <;> rfl
  unfold writeCmdOp
  split
  · rfl
  · split
    · exact hhand _ _
    · rfl

theorem view_writeStaging (k : Fin 32) (v : Byte) (s : State) : view (writeStaging k v s) = view s := by
  unfold writeStaging
  dsimp only
  split <;> rfl

theorem view_writeWatermark (v : Byte) (s : State) : view (writeWatermark v s) = view s :=
  view_requestIf _ _ _

theorem view_writeInjTag (v : Byte) (s : State) : view (writeInjTag v s) = view s := by
  rw [writeInjTag, view_chooseWork]
  exact view_takeArrival _ _ _ _ s

theorem events_writeWindow (a : Address) (v : Byte) (s : State) : Events s (writeWindow a v s) := by
  unfold writeWindow
  split
  · exact .aside (view_writeStaging _ v s)
  split
  case h_1 => exact events_writeControl v s
  case h_4 => exact .aside (view_writeCmdOp v s)
  case h_7 => exact .aside (view_writeWatermark v s)
  case h_10 => exact .aside (view_writeInjTag v s)
  all_goals exact .aside rfl

/-! ## Commands -/

/-- An outcome that, where it is a next state, is reached by a chain of events. -/
def Reaches (s : State) (o : Host.Outcome State Fault Refusal) : Prop :=
  ∀ t : State, o = .next t → Events s t

theorem reaches_next {s t : State} (h : Events s t) : Reaches s (.next t) := by
  rintro u ⟨⟩
  exact h

/-- A command of another block. -/
theorem reaches_aside {s t : State} (h : view t = view s) : Reaches s (.next t) :=
  reaches_next (.aside h)

theorem reaches_nothing (s : State) : Reaches s (.next s) := reaches_next (.refl s)

/-- A command that is served where it waits, and does nothing where it does not. -/
theorem reaches_ite {s t : State} {b : Bool} (h : Events s t) : Reaches s (.next (if b then t else s)) := by
  cases b
  · exact reaches_nothing s
  · exact reaches_next h

theorem reaches_hostWrite {f : State → State} {s : State} (hf : ∀ u : State, Events u (f u)) :
    Reaches s (.next (hostWrite f s)) :=
  reaches_next (events_hostWrite hf s)

/-- A write cycle that reaches neither the output unit nor the watch table. -/
theorem reaches_hostWrite_aside {f : State → State} {s : State} (hf : ∀ u : State, view (f u) = view u) :
    Reaches s (.next (hostWrite f s)) :=
  reaches_hostWrite fun u => .aside (hf u)

theorem reaches_hostRead {f : State → State} {b : Byte} {s : State} (hf : ∀ u : State, view (f u) = view u) :
    Reaches s (.next (hostRead b f s)) :=
  reaches_next (events_hostRead hf b s)

theorem withdrawalsWait_of_tableReady {c : Command} {s : State} (h : tableReady c s = true) :
    withdrawalsWait s = false :=
  withdrawalsWait_eq_false (by rw [(tableReady_iff.mp h).1]; nofun)

section
variable (s : State)

theorem execReadEntry_reaches : Reaches s (execReadEntry s) := by
  unfold execReadEntry
  split
  · next h =>
    have hw := withdrawalsWait_of_tableReady h
    split
    · exact reaches_aside (view_endService _ hw)
    · exact reaches_aside (view_endService (s := { s with staging := _ }) _ hw)
  · exact reaches_nothing s

theorem execWriteEntry_reaches : Reaches s (execWriteEntry s) := by
  unfold execWriteEntry
  split
  · next h =>
    have hw := withdrawalsWait_of_tableReady h
    split
    · exact reaches_aside (view_endService _ hw)
    split
    · exact reaches_aside (view_endService _ hw)
    next n _ _ c _ =>
    split
    · exact reaches_aside (view_endService _ hw)
    · next hrefusal =>
      have hfix (harmed : s.entries[n].state ≠ .disarmed) : FixedFieldsEqual s.entries[n].cfg c := by
        by_contra hne
        rw [writeEntryRefusal_eq] at hrefusal
        split at hrefusal
        · cases hrefusal
        · rw [if_pos ⟨harmed, hne⟩] at hrefusal
          cases hrefusal
      exact reaches_next ((Event.store hw hfix).events.before (view_endService (s := modEntry n _ s) _ hw))
  · exact reaches_nothing s

theorem execArm_reaches : Reaches s (execArm s) := by
  unfold execArm
  split
  · next h =>
    have hw := withdrawalsWait_of_tableReady h
    split
    · exact reaches_aside (view_endService _ hw)
    next n _ =>
    dsimp only
    split
    · exact reaches_aside (view_endService _ hw)
    next hd =>
    split
    · exact reaches_aside (view_endService _ hw)
    · exact reaches_next ((Event.arm _ hw (by simpa using hd)).events.before
        (view_endService (s := modEntry n _ s) _ hw))
  · exact reaches_nothing s

theorem execDisarm_reaches : Reaches s (execDisarm s) := by
  unfold execDisarm
  split
  · next h =>
    have hw := withdrawalsWait_of_tableReady h
    split
    · exact reaches_aside (view_endService _ hw)
    next n _ =>
    split
    · exact reaches_aside (view_endService _ hw)
    · exact reaches_next ((Event.disarm n hw).events.before
        (view_endService _ ((withdrawalsWait_of_entryWork (withdraw_work n _)).trans hw)))
  · exact reaches_nothing s

theorem execRelease_reaches : Reaches s (execRelease s) := by
  unfold execRelease
  split
  · next h =>
    have hw := withdrawalsWait_of_tableReady h
    split
    · exact reaches_aside (view_endService _ hw)
    next n _ =>
    split
    · exact reaches_aside (view_endService _ hw)
    · exact reaches_next ((events_releaseEntry hw n).before
        (view_endService _ ((withdrawalsWait_of_entryWork (releaseEntry_work n s)).trans hw)))
    all_goals exact reaches_aside (view_endService _ hw)
  · exact reaches_nothing s

theorem execReleaseAll_reaches (x : Extent) : Reaches s (execReleaseAll x s) := by
  cases x with
  | advance => exact reaches_next (events_releaseAllStep s)
  | finish => exact reaches_next ((events_releaseAllStep s).trans (events_releaseAllRest 32 _))

theorem execEnable_reaches : Reaches s (execEnable s) := by
  unfold execEnable
  split
  · next h =>
    have hw := withdrawalsWait_of_tableReady h
    split
    · exact reaches_aside (view_endService _ hw)
    split
    · exact reaches_aside (view_endService _ hw)
    · exact reaches_aside (view_endService (s := modChannel _ _ s) _ hw)
  · exact reaches_nothing s

theorem execDisable_reaches : Reaches s (execDisable s) := by
  unfold execDisable
  split
  · next h =>
    have hw := withdrawalsWait_of_tableReady h
    split
    · exact reaches_aside (view_endService _ hw)
    split
    · exact reaches_aside (view_endService _ hw)
    split
    · exact reaches_aside (view_endService _ hw)
    · exact reaches_aside (view_endService (s := modChannel _ _ s) _ hw)
  · exact reaches_nothing s

theorem execRestart_reaches (x : RestartExtent) : Reaches s (execRestart x s) := by
  cases x with
  | finish => exact reaches_next (events_restartAll s)
  | part p => exact reaches_next (events_restartPart p s)

theorem execEvaluation_reaches (x : Extent) : Reaches s (execEvaluation x s) := by
  cases x with
  | advance => exact reaches_next (events_evaluationStep s)
  | finish => exact reaches_next (events_evaluationFinish s)

theorem execQualificationExpiryTaken_reaches : Reaches s (execQualificationExpiryTaken s) := by
  unfold execQualificationExpiryTaken
  split
  · next n he => exact reaches_next (events_handleQualification (withdrawalsWait_eq_false (by rw [he]; nofun)) n)
  · next he => exact reaches_aside (view_comeFree (withdrawalsWait_eq_false (by rw [he]; nofun)))
  all_goals exact reaches_nothing s

theorem execShapingExpiryTaken_reaches : Reaches s (execShapingExpiryTaken s) := by
  unfold execShapingExpiryTaken
  split
  · next n he => exact reaches_next (events_serveShaping (withdrawalsWait_eq_false (by rw [he]; nofun)) n)
  all_goals exact reaches_nothing s

theorem execTickBy_reaches (x : TickExtent) : Reaches s (execTickBy x s) := by
  cases x with
  | whole => exact reaches_next (events_tick s)
  | interval => exact reaches_aside (view_endInterval s)
  | timestamp => exact reaches_aside (view_stampTick s)
  | timerBank => exact reaches_next (events_bankTick s)
  | channelUnit => exact reaches_aside (view_channelTicks s)

theorem view_serveReadChannel : view (serveReadChannel s) = view s := by
  unfold serveReadChannel
  split <;> rfl

theorem view_serveWriteChannel : view (serveWriteChannel s) = view s := by
  unfold serveWriteChannel
  split
  · rfl
  split
  · rfl
  · split <;> rfl

theorem execPop_reaches : Reaches s (execPop s) := by
  unfold execPop
  split
  · split <;> exact reaches_aside rfl
  · exact reaches_nothing s

theorem execFlush_reaches : Reaches s (execFlush s) := by
  unfold execFlush
  split
  · exact reaches_aside rfl
  · exact reaches_nothing s

theorem execReadAcc_reaches : Reaches s (execReadAcc s) := by
  unfold execReadAcc
  split
  · exact reaches_nothing s
  · next h =>
    obtain ⟨-, rest, -, rfl⟩ := takeAccCommand_eq_some.mp h
    split <;> exact reaches_aside rfl

theorem execWriteAcc_reaches : Reaches s (execWriteAcc s) := by
  unfold execWriteAcc
  split
  · exact reaches_nothing s
  · next h =>
    obtain ⟨-, rest, -, rfl⟩ := takeAccCommand_eq_some.mp h
    split <;> exact reaches_aside rfl

theorem execCaptureStep_reaches : Reaches s (execCaptureStep s) := by
  unfold execCaptureStep
  split <;> exact reaches_aside rfl

theorem execFreshnessExpiry_reaches (c : Fin 16) : Reaches s (execFreshnessExpiry c s) :=
  reaches_ite (.aside ((view_chooseWork _).trans (view_channelTick c s)))

theorem execArrival_reaches : Reaches s (execArrival s) := by
  unfold execArrival
  split
  · exact reaches_nothing s
  · next a rest _ =>
    have harrival := view_takeArrival true a.channel a.raw a.status { s with port := { s.port with delivered := rest } }
    refine reaches_aside ?_
    rw [view_chooseWork]
    exact harrival

theorem execArrivalOutcome_reaches : Reaches s (execArrivalOutcome s) := by
  unfold execArrivalOutcome
  split
  · exact reaches_nothing s
  · exact reaches_aside (by simp)

theorem execFrameStart_reaches : Reaches s (execFrameStart s) := by
  unfold execFrameStart
  split
  · exact reaches_nothing s
  split
  · exact reaches_aside rfl
  · exact reaches_aside (view_takePortCommand s)

theorem execFrameEnd_reaches : Reaches s (execFrameEnd s) := by
  unfold execFrameEnd
  split
  · exact reaches_nothing s
  split
  · exact reaches_aside rfl
  · exact reaches_aside ((view_endFrame _).trans (view_takePortCommand s))

theorem execSclkRisingEdge_reaches (sdat : Bool) : Reaches s (execSclkRisingEdge sdat s) := by
  unfold execSclkRisingEdge
  split
  · exact reaches_nothing s
  · exact reaches_aside (view_takePortCommand s)

theorem execRecordSubmission_reaches (who : Submitter) : Reaches s (execRecordSubmission who s) := by
  unfold execRecordSubmission
  split
  · exact reaches_aside (view_takeRecord _ _)
  · exact reaches_nothing s

/-- Outside power-on reset a fall of SHUTOFF# is an event of the output unit (R99); in it only the level moves (R100). -/
theorem execShutoffAssert_reaches (h : s.inReset = false) : Reaches s (execShutoffAssert s) := by
  unfold execShutoffAssert
  split
  · exact reaches_nothing s
  · rw [h]
    exact reaches_next ((events_takeLineCommand s).trans (Event.cutoff _).events)

/-- Every command is a chain of events, but for a fall of SHUTOFF# in power-on reset. -/
theorem exec_events {c : Instr} (hc : c = .shutoffAssert → s.inReset = false) : Reaches s (exec c s) := by
  cases c with
  | readEntry => exact execReadEntry_reaches s
  | writeEntry => exact execWriteEntry_reaches s
  | arm => exact execArm_reaches s
  | disarm => exact execDisarm_reaches s
  | release => exact execRelease_reaches s
  | releaseAll x => exact execReleaseAll_reaches s x
  | readChannel => exact reaches_ite (.aside (view_serveReadChannel s))
  | writeChannel => exact reaches_ite (.aside (view_serveWriteChannel s))
  | enable => exact execEnable_reaches s
  | disable => exact execDisable_reaches s
  | readLine => exact reaches_ite (.aside (view_serveReadLine s))
  | writeLine => exact reaches_ite (Event.writeLine s).events
  | silence => exact reaches_ite (Event.silence s).events
  | override => exact reaches_ite (Event.override s).events
  | resume => exact reaches_ite (Event.resume s).events
  | pop => exact execPop_reaches s
  | flush => exact execFlush_reaches s
  | readAcc => exact execReadAcc_reaches s
  | writeAcc => exact execWriteAcc_reaches s
  | clearPortCounts => exact reaches_ite (.aside rfl)
  | restart x => exact execRestart_reaches s x
  | badOpcode op | cmdOpWriteLost op | commandTaken op => exact reaches_hostWrite_aside (view_writeCmdOp op)
  | evaluation x => exact execEvaluation_reaches s x
  | captureStep => exact execCaptureStep_reaches s
  | qualificationTimerExpiry n | shapingTimerExpiry n => exact reaches_ite (events_bankTick s)
  | qualificationExpiryTaken => exact execQualificationExpiryTaken_reaches s
  | shapingExpiryTaken => exact execShapingExpiryTaken_reaches s
  | tickBy x => exact execTickBy_reaches s x
  | freshnessExpiry c => exact execFreshnessExpiry_reaches s c
  | arrival => exact execArrival_reaches s
  | arrivalOutcome => exact execArrivalOutcome_reaches s
  | frameStart => exact execFrameStart_reaches s
  | frameEnd => exact execFrameEnd_reaches s
  | injTagWrite v => exact reaches_hostWrite_aside (view_writeInjTag v)
  | injValueLowWrite v | injValueHighWrite v | tbdivLowWrite v | tbdivHighWrite v | intFlagsClear v | intMaskWrite v =>
    exact reaches_hostWrite_aside fun _ => rfl
  | oeChange v | portEnChange v => exact reaches_hostWrite (events_writeControl v)
  | watermarkWrite v => exact reaches_hostWrite_aside (view_writeWatermark v)
  | headLatchLoad | timestampLatchLoad | bitmapLatchLoad b => exact reaches_hostRead fun _ => rfl
  | registerWrite a v => exact reaches_hostWrite (events_writeWindow a v)
  | recordSubmission who => exact execRecordSubmission_reaches s who
  | shutoffAssert => exact execShutoffAssert_reaches s (hc rfl)
  | shutoffRelease => exact reaches_ite ((events_takeLineCommand s).trans (Event.release _).events)
  | powerOnReset => exact reaches_next (Event.powerOn s).events
  | powerOnResetEnd => exact reaches_ite (.aside rfl)
  | sclkRisingEdge sdat => exact execSclkRisingEdge_reaches s sdat

end

/-- What a step does: a chain of events, or, in power-on reset, a fall of SHUTOFF# (R100), which moves its level. -/
theorem step_events {s t : State} (h : step s = .next t) :
    Events s t ∨ (s.inReset = true ∧ view t = { view s with shutoff := true }) := by
  unfold step at h
  split at h
  · cases h
    exact .inl (events_clkin s)
  · next c rest _ =>
    by_cases hc : c = .shutoffAssert → s.inReset = false
    · exact .inl ((exec_events { s with pending := rest } hc t h).after rfl)
    · obtain ⟨rfl, hr⟩ := Classical.not_imp.mp hc
      replace hr : s.inReset = true := by simpa using hr
      simp only [exec, execShutoffAssert, hr, if_true] at h
      split at h
      · cases h
        exact .inl (.aside rfl)
      · cases h
        exact .inr ⟨hr, rfl⟩

end Sys2Proof.OutputEvents
end

section
/-! PROOFS. The laws of the output lines are kept by every step (O8). The laws of a line fall into what a change of want
leaves alone (`Standing`), want itself, and what hold, blocked and pin are on it and on the two lines of its pair
(`HoldLaw`); then each event keeps them. -/

namespace Sys2Proof.OutputLaws

open Sys2Proof.Machine Sys2Proof.Safety Sys2Proof.Claims Sys2Proof.WatchTable Sys2Proof.Contributions Sys2Proof.Handling
  Sys2Proof.Edges Sys2Proof.Refusals Sys2Proof.OutputEvents Sys2Proof.Evaluations

/-! ## The laws, part by part -/

/-- What a change of want leaves alone (R91, R94, R99, R105). -/
structure Standing (shutoff : Bool) (ln : Line) : Prop where
  demand : ln.demand = anyContrib ln.contrib
  silence : ln.silenced = true → ln.override = .auto ∧ ln.demand = true
  member : shutoff = true → ln.cutMember = true → ln.cut = true
  cut : ln.cut = true → ln.cutMember = true

/-- Hold, blocked and pin of a line (R83, R95, R102). -/
structure Holding (oe : Bool) (ln : Line) : Prop where
  hold : ln.hold = (ln.want && !ln.blocked)
  blocked : ln.blocked = true → ln.want = true
  pin : ln.pinActive = (ln.hold && oe && !ln.cut)

/-- The two lines of a pair (R95). -/
structure Paired (exclusive : Bool) (a b : Line) : Prop where
  apart : exclusive = true → ¬ (a.hold = true ∧ b.hold = true)
  left : a.blocked = true → exclusive = true ∧ b.hold = true
  right : b.blocked = true → exclusive = true ∧ a.hold = true

theorem Paired.symm {exclusive : Bool} {a b : Line} (h : Paired exclusive a b) : Paired exclusive b a :=
  ⟨fun he hh => h.apart he hh.symm, h.right, h.left⟩

/-- Hold, blocked and pin of every line, and of the two of every pair. -/
def HoldLaw (s : State) : Prop :=
  ∀ l : Fin 16, Holding s.oe s.lines[l] ∧ Paired s.exclusive[pairOf l] s.lines[l] s.lines[partner l]

theorem partner_partner (l : Fin 16) : partner (partner l) = l := by
  revert l
  decide

theorem pairOf_partner (l : Fin 16) : pairOf (partner l) = pairOf l := by
  revert l
  decide

/-- A line of another pair is not of this one. -/
theorem pairOf_ne {l k : Fin 16} (hl : k ≠ l) (hp : k ≠ partner l) : pairOf k ≠ pairOf l := by
  revert l k
  decide

theorem partner_ne_of_other {l k : Fin 16} (hl : k ≠ l) (hp : k ≠ partner l) : partner k ≠ l ∧ partner k ≠ partner l := by
  revert l k
  decide

theorem outputLaw_iff {s : State} : OutputLaw s ↔
    (∀ l : Fin 16, Standing s.shutoff s.lines[l]) ∧ (∀ l : Fin 16, s.lines[l].want = s.lines[l].wants) ∧ HoldLaw s := by
  constructor
  · intro h
    refine ⟨fun l => ?_, fun l => ?_, fun l => ?_⟩ <;> obtain ⟨⟨hd, hw, hh, hb, hp⟩, hs, ⟨hx, hxb⟩, hm, hc⟩ := h l
    · exact ⟨(linesInStep_of_outputLaw h l).demand, hs, hm, hc⟩
    · exact hw
    · obtain ⟨-, -, ⟨-, hyb⟩, -⟩ := h (partner l)
      simp only [isExclusive, partner_partner, pairOf_partner] at hyb
      exact ⟨⟨hh, hb, hp⟩, ⟨hx, hxb, hyb⟩⟩
  · rintro ⟨hstanding, hwant, hhold⟩ l
    obtain ⟨hd, hs, hm, hc⟩ := hstanding l
    obtain ⟨⟨hh, hb, hp⟩, ⟨hx, hxb, -⟩⟩ := hhold l
    exact ⟨⟨by rw [hd, anyContrib_iff], hwant l, hh, hb, hp⟩, hs, ⟨hx, hxb⟩, hm, hc⟩

/-- The law looks at the lines, the pairs, OE and SHUTOFF# only. -/
theorem outputLaw_congr {s t : State} (hl : t.lines = s.lines) (hx : t.exclusive = s.exclusive) (ho : t.oe = s.oe)
    (hs : t.shutoff = s.shutoff) (h : OutputLaw s) : OutputLaw t := by
  rw [outputLaw_iff, HoldLaw] at h ⊢
  rwa [hl, hx, ho, hs]

theorem linesRest_of_holdLaw {s : State} (h : HoldLaw s) : LinesRest s := by
  intro l hw
  obtain ⟨⟨hhold, hblocked, -⟩, -⟩ := h l
  refine ⟨by rw [hhold, hw, Bool.false_and], ?_⟩
  cases hb : s.lines[l].blocked
  · rfl
  · exact absurd (hw.symm.trans (hblocked hb)) (by decide)

/-! ## One pair -/

/-- The law stands where it stands on the one pair that has changed. -/
theorem holdLaw_of_pair {s t : State} {l : Fin 16} (hs : HoldLaw s) (hothers : OtherLinesKept l s t) (hoe : t.oe = s.oe)
    (hexcl : ∀ p : Fin 8, p ≠ pairOf l → t.exclusive[p] = s.exclusive[p]) (hl : Holding t.oe t.lines[l])
    (hm : Holding t.oe t.lines[partner l]) (hp : Paired t.exclusive[pairOf l] t.lines[l] t.lines[partner l]) :
    HoldLaw t := by
  intro k
  by_cases hk : k = l
  · subst hk
    exact ⟨hl, hp⟩
  by_cases hkp : k = partner l
  · subst hkp
    simp only [pairOf_partner, partner_partner]
    exact ⟨hm, hp.symm⟩
  · obtain ⟨hpl, hpp⟩ := partner_ne_of_other hk hkp
    rw [hoe, hothers k hk hkp, hothers (partner k) hpl hpp, hexcl _ (pairOf_ne hk hkp)]
    exact hs k

/-- A line that is changed, but for its want, hold, blocked, pin and cut. -/
structure SameHold (ln ln' : Line) : Prop where
  want : ln'.want = ln.want
  hold : ln'.hold = ln.hold
  blocked : ln'.blocked = ln.blocked
  pin : ln'.pinActive = ln.pinActive
  cut : ln'.cut = ln.cut

theorem SameHold.holding {oe : Bool} {ln ln' : Line} (h : SameHold ln ln') (k : Holding oe ln) : Holding oe ln' := by
  obtain ⟨hw, hh, hb, hp, hc⟩ := h
  obtain ⟨kh, kb, kp⟩ := k
  exact ⟨by rw [hh, hw, hb, kh], by rw [hb, hw]; exact kb, by rw [hp, hh, hc, kp]⟩

theorem SameHold.paired {exclusive : Bool} {ln ln' mate : Line} (h : SameHold ln ln') (k : Paired exclusive ln mate) :
    Paired exclusive ln' mate :=
  ⟨by rw [h.hold]; exact k.apart, by rw [h.blocked]; exact k.left, by rw [h.hold]; exact k.right⟩

/-- What follows from a line's new want keeps the law (R92, R95, R96). -/
theorem holdLaw_of_follows {s t : State} {l : Fin 16} {ln : Line} (hs : HoldLaw s) (hln : SameHold s.lines[l] ln)
    (hoe : t.oe = s.oe) (hexcl : t.exclusive = s.exclusive) (h : LineFollows l ln s t) : HoldLaw t := by
  obtain ⟨hothers, hsame, hrise, hfall⟩ := h
  obtain ⟨hholding, hpaired⟩ := hs l
  have hmate : Holding s.oe s.lines[partner l] := (hs (partner l)).1
  obtain ⟨hrest, hfree⟩ : Rests s.lines[l] ∧ Rests s.lines[partner l] :=
    ⟨linesRest_of_holdLaw hs l, linesRest_of_holdLaw hs (partner l)⟩
  have pair (h1 : Holding s.oe t.lines[l]) (h2 : Holding s.oe t.lines[partner l])
      (h3 : Paired s.exclusive[pairOf l] t.lines[l] t.lines[partner l]) : HoldLaw t :=
    holdLaw_of_pair hs hothers hoe (fun p _ => by rw [hexcl]) (hoe ▸ h1) (hoe ▸ h2) (hexcl ▸ h3)
  cases hw : wantOf ln <;> cases hv : s.lines[l].want
  case false.false | true.true =>
    obtain ⟨e, em⟩ := hsame (hw.trans hv.symm)
    rw [e, em] at pair
    exact pair (hln.holding hholding) hmate (hln.paired hpaired)
  case true.false =>
    obtain ⟨em, e⟩ := hrise hw hv
    obtain ⟨hh, hb⟩ := hrest hv
    have hmateFree : s.lines[partner l].blocked = false := by
      refine Bool.eq_false_iff.mpr fun hb => ?_
      exact absurd (hh.symm.trans (hpaired.right hb).2) (by decide)
    rw [e, em] at pair
    split at pair
    · next hx => exact pair ⟨rfl, fun _ => rfl, rfl⟩ hmate ⟨nofun, fun _ => hx, fun h => absurd (h.symm.trans hmateFree) nofun⟩
    · next hx =>
      exact pair ⟨rfl, nofun, (Bool.true_and _).symm ▸ rfl⟩ hmate
        ⟨fun he hm => hx ⟨he, hm.2⟩, nofun, fun h => absurd (h.symm.trans hmateFree) nofun⟩
  case false.true =>
    obtain ⟨e, em⟩ := hfall hw hv
    rw [e, em] at pair
    split at pair
    · next hx =>
      obtain ⟨-, -, hblocked⟩ := hx
      exact pair ⟨rfl, nofun, rfl⟩ ⟨by rw [hmate.blocked hblocked]; rfl, nofun, rfl⟩ ⟨fun _ h => absurd h.1 nofun, nofun, nofun⟩
    · next hx =>
      refine pair ⟨rfl, nofun, rfl⟩ hmate ⟨fun _ h => absurd h.1 nofun, nofun, fun hb => ?_⟩
      obtain ⟨he, hh⟩ := hpaired.right hb
      exact absurd ⟨hh, he, hb⟩ hx

/-- A change of demand, silence or override of one line, carried through, keeps the laws (R92 to R97). -/
theorem updateWant_outputLaw (i : Bool) {l : Fin 16} {f : Line → Line} {s : State} (hs : OutputLaw s)
    (hf : Standing s.shutoff (f s.lines[l])) (hsame : SameHold s.lines[l] (f s.lines[l])) :
    OutputLaw (updateWant i l (modLine l f s)) := by
  have hstep : LinesInStep (updateWant i l (modLine l f s)) :=
    updateWant_linesInStep i (linesInStep_of_outputLaw hs) hf.demand
  have hframe := updateWant_frame i l (modLine l f s)
  obtain ⟨hstanding, -, hhold⟩ := outputLaw_iff.mp hs
  refine outputLaw_iff.mpr ⟨fun k => ?_, fun k => (hstep k).want, ?_⟩
  · have hshut : (updateWant i l (modLine l f s)).shutoff = s.shutoff := by rw [hframe]; rfl
    obtain ⟨want, hold, blocked, pin, e⟩ := updateWant_lines i l k (modLine l f s)
    have hline : Standing s.shutoff (modLine l f s).lines[k] := by
      by_cases hk : k = l
      · subst hk
        rwa [modLine_self]
      · rw [modLine_other _ _ hk]
        exact hstanding k
    rw [e, hshut]
    exact ⟨hline.demand, hline.silence, hline.member, hline.cut⟩
  · exact holdLaw_of_follows hhold hsame (by rw [hframe]; rfl) (by rw [hframe]; rfl)
      (updateWant_follows i (linesRest_of_holdLaw hhold l) hsame.want hsame.hold hsame.blocked)

/-- A contribution change keeps the laws (R84, R91, R94). -/
theorem setContrib_outputLaw (l : Fin 16) (n : Fin 32) (b : Bool) {s : State} (hs : OutputLaw s) :
    OutputLaw (setContrib l n b s) := by
  obtain ⟨-, hsilence, hmember, hcut⟩ := (outputLaw_iff.mp hs).1 l
  refine updateWant_outputLaw true hs ⟨rfl, fun h => ?_, hmember, hcut⟩ ⟨rfl, rfl, rfl, rfl, rfl⟩
  simp only [Line.withContrib] at h ⊢
  split at h
  · cases h
  · next hfall =>
    obtain ⟨hauto, hdemand⟩ := hsilence h
    rw [hdemand, Bool.true_and, Bool.not_eq_true', Bool.not_eq_false] at hfall
    exact ⟨hauto, hfall⟩

/-! ## Every line at once -/

/-- OE, SHUTOFF# and the cuts change, and every pin follows (R99, R101, R102). -/
theorem outputLaw_of_pins {s t : State} (cut : Fin 16 → Bool) (hs : OutputLaw s)
    (hlines : ∀ k : Fin 16, t.lines[k] = Line.withPin t.oe { s.lines[k] with cut := cut k })
    (hexcl : t.exclusive = s.exclusive) (hmember : ∀ k : Fin 16, t.shutoff = true → s.lines[k].cutMember = true → cut k = true)
    (hcut : ∀ k : Fin 16, cut k = true → s.lines[k].cutMember = true) : OutputLaw t := by
  obtain ⟨hstanding, hwant, hhold⟩ := outputLaw_iff.mp hs
  refine outputLaw_iff.mpr ⟨fun k => ?_, fun k => ?_, fun k => ?_⟩
  · rw [hlines]
    exact ⟨(hstanding k).demand, (hstanding k).silence, hmember k, hcut k⟩
  · rw [hlines]
    exact hwant k
  · obtain ⟨⟨hh, hb, -⟩, hpaired⟩ := hhold k
    rw [hlines, hlines, hexcl]
    exact ⟨⟨hh, hb, rfl⟩, ⟨hpaired.apart, hpaired.left, hpaired.right⟩⟩

/-- Lines at their power-on values (R108), whatever OE, the pairs and SHUTOFF# are. -/
theorem outputLaw_of_powerOn {s : State} (h : ∀ l : Fin 16, s.lines[l] = Line.powerOn) : OutputLaw s := by
  refine outputLaw_iff.mpr ⟨fun l => ?_, fun l => ?_, fun l => ?_⟩ <;> simp only [h]
  · exact ⟨by decide, nofun, nofun, nofun⟩
  · rfl
  · exact ⟨⟨rfl, nofun, rfl⟩, ⟨fun _ h => absurd h.1 nofun, nofun, nofun⟩⟩

theorem powerOn_line (s : State) (l : Fin 16) : (powerOn s).lines[l] = Line.powerOn :=
  AtReset.reset_line l

/-! ## Line commands -/

/-- A blocked line that takes hold (R96, R106). -/
def takesHold (oe : Bool) (ln : Line) : Line :=
  { ln with blocked := false, hold := true, pinActive := oe && !ln.cut }

/-- A line of a pair that may end to be exclusive: where it ends, a blocked line takes hold (R106). -/
def freed (ends oe : Bool) (ln : Line) : Line :=
  if ends = true ∧ ln.blocked = true then takesHold oe ln else ln

theorem takeOver_self (l : Fin 16) (s : State) : (takeOver l s).lines[l] = freed true s.oe s.lines[l] := by
  rw [takeOver, modLine_self, freed]
  exact if_congr (and_iff_right rfl).symm (by simp [Line.withPin, takesHold]) rfl

theorem takeOver_other {l k : Fin 16} (s : State) (hk : k ≠ l) : (takeOver l s).lines[k] = s.lines[k] :=
  modLine_other _ s hk

/-- What WRITE_LINE stores in its own line (R106). -/
def storedIn (p : LineProposal) (ln : Line) : Line :=
  { ln with
    polarity := p.polarity, cutMember := p.cutMember, conflictEvent := p.conflictEvent,
    conflictSeverity := p.conflictSeverity }

/-- What WRITE_LINE stores (R106). -/
def stored (l : Fin 16) (p : LineProposal) (s : State) : State :=
  { modLine l (storedIn p) s with exclusive := s.exclusive.set (pairOf l) p.exclusive }

theorem storeLine_eq (l : Fin 16) (p : LineProposal) (s : State) :
    storeLine l p s = if (isExclusive l s && !p.exclusive) = true then takeOver (partner l) (takeOver l (stored l p s))
      else stored l p s := rfl

section
variable (l : Fin 16) (p : LineProposal) (s : State)

theorem freed_false (oe : Bool) (ln : Line) : freed false oe ln = ln := if_neg fun h => Bool.false_ne_true h.1

theorem stored_self : (stored l p s).lines[l] = storedIn p s.lines[l] := modLine_self l _ s

theorem stored_other {l k : Fin 16} (hk : k ≠ l) : (stored l p s).lines[k] = s.lines[k] := modLine_other _ s hk

theorem storeLine_self : (storeLine l p s).lines[l] =
    freed (isExclusive l s && !p.exclusive) s.oe (storedIn p s.lines[l]) := by
  rw [storeLine_eq]
  split
  · next h => rw [takeOver_other _ (partner_ne l).symm, takeOver_self, stored_self, h]; rfl
  · next h => rw [stored_self, Bool.eq_false_iff.mpr h, freed_false]

theorem storeLine_mate : (storeLine l p s).lines[partner l] =
    freed (isExclusive l s && !p.exclusive) s.oe s.lines[partner l] := by
  rw [storeLine_eq]
  split
  · next h => rw [takeOver_self, takeOver_other _ (partner_ne l), stored_other _ _ (partner_ne l), h]; rfl
  · next h => rw [stored_other _ _ (partner_ne l), Bool.eq_false_iff.mpr h, freed_false]

theorem storeLine_other {l k : Fin 16} (hl : k ≠ l) (hp : k ≠ partner l) : (storeLine l p s).lines[k] = s.lines[k] := by
  rw [storeLine_eq]
  split
  · rw [takeOver_other _ hp, takeOver_other _ hl, stored_other _ _ hl]
  · exact stored_other _ _ hl

/-- WRITE_LINE reaches the lines of the pair and its flag, and nothing else (R106). -/
theorem storeLine_frame : storeLine l p s =
    { s with lines := (storeLine l p s).lines, exclusive := s.exclusive.set (pairOf l) p.exclusive } := by
  rw [storeLine_eq]
  split <;> rfl

end

/-- A proposal passes the checks 2 to 4 of R105. -/
theorem lineRefusal_eq_none {l : Fin 16} {p : LineProposal} {s : State} : lineRefusal l p s = none ↔
    (p.cutMember = s.lines[l].cutMember ∨ s.shutoff = false ∧ ∀ k : Fin 16, s.lines[k].cut = false)
      ∧ ¬ (p.exclusive = true ∧ s.lines[l].hold = true ∧ s.lines[partner l].hold = true) := by
  have hcuts : anyCut s = false ↔ ∀ k : Fin 16, s.lines[k].cut = false := by
    rw [Bool.eq_false_iff, Ne, anyCut_iff]
    simp
  unfold lineRefusal
  dsimp only
  rw [← hcuts]
  by_cases hm : p.cutMember = s.lines[l].cutMember
  · simp [-Fin.getElem_fin, hm]
  · cases s.shutoff <;> cases anyCut s <;> simp [-Fin.getElem_fin, hm]

theorem freed_standing {ends oe shutoff : Bool} {ln : Line} (h : Standing shutoff ln) :
    Standing shutoff (freed ends oe ln) := by
  unfold freed
  split
  · exact ⟨h.demand, h.silence, h.member, h.cut⟩
  · exact h

theorem freed_want {ends oe : Bool} {ln : Line} (h : ln.want = ln.wants) :
    (freed ends oe ln).want = (freed ends oe ln).wants := by
  unfold freed
  split <;> exact h

theorem freed_holding {ends oe : Bool} {ln : Line} (h : Holding oe ln) : Holding oe (freed ends oe ln) := by
  unfold freed
  split
  · next hb => exact ⟨by rw [takesHold, h.blocked hb.2]; rfl, nofun, rfl⟩
  · exact h

/-- Where a pair ends to be exclusive none of its lines stays blocked (R106). -/
theorem freed_unblocked (oe : Bool) (ln : Line) : (freed true oe ln).blocked = false := by
  unfold freed
  split
  · rfl
  · next h => exact Bool.eq_false_iff.mpr fun hb => h ⟨rfl, hb⟩

/-- The pair with its new flag (R95, R105, R106). -/
theorem freed_paired {old new oe : Bool} {a b : Line} (h : Paired old a b)
    (hbusy : ¬ (new = true ∧ a.hold = true ∧ b.hold = true)) :
    Paired new (freed (old && !new) oe a) (freed (old && !new) oe b) := by
  cases old <;> cases new
  case false.false | true.true =>
    rw [Bool.and_not_self, freed_false, freed_false]
    exact h
  case false.true =>
    rw [Bool.false_and, freed_false, freed_false]
    exact ⟨fun _ hh => hbusy ⟨rfl, hh⟩, fun hb => absurd (h.left hb).1 nofun, fun hb => absurd (h.right hb).1 nofun⟩
  case true.false =>
    exact ⟨nofun, fun hb => absurd (hb.symm.trans (freed_unblocked _ _)) nofun,
      fun hb => absurd (hb.symm.trans (freed_unblocked _ _)) nofun⟩

/-- A WRITE_LINE that passes its checks keeps the laws (R105, R106). -/
theorem storeLine_outputLaw {l : Fin 16} {p : LineProposal} {s : State} (hpass : lineRefusal l p s = none)
    (hs : OutputLaw s) : OutputLaw (storeLine l p s) := by
  obtain ⟨hmember, hbusy⟩ := lineRefusal_eq_none.mp hpass
  obtain ⟨hstanding, hwant, hhold⟩ := outputLaw_iff.mp hs
  have hframe := storeLine_frame l p s
  have hshut : (storeLine l p s).shutoff = s.shutoff := by rw [hframe]
  have hoe : (storeLine l p s).oe = s.oe := by rw [hframe]
  have hexcl : (storeLine l p s).exclusive = s.exclusive.set (pairOf l) p.exclusive := by rw [hframe]
  obtain ⟨hholding, hpaired⟩ := hhold l
  have hstored : Standing s.shutoff (storedIn p s.lines[l]) := by
    obtain ⟨hd, hsil, hm, hc⟩ := hstanding l
    refine ⟨hd, hsil, ?_, ?_⟩ <;> rcases hmember with e | ⟨hshut, hcut⟩ <;> simp only [storedIn]
    · rwa [e]
    · rw [hshut]
      nofun
    · rwa [e]
    · rw [hcut l]
      nofun
  have cases_on {P : Line → Prop} (hself : P (freed (isExclusive l s && !p.exclusive) s.oe (storedIn p s.lines[l])))
      (hmate : P (freed (isExclusive l s && !p.exclusive) s.oe s.lines[partner l]))
      (hother : ∀ k : Fin 16, P s.lines[k]) (k : Fin 16) : P (storeLine l p s).lines[k] := by
    by_cases hk : k = l
    · subst hk
      rwa [storeLine_self]
    by_cases hkp : k = partner l
    · subst hkp
      rwa [storeLine_mate]
    · rw [storeLine_other _ _ hk hkp]
      exact hother k
  refine outputLaw_iff.mpr ⟨?_, ?_, ?_⟩
  · rw [hshut]
    exact cases_on (freed_standing hstored) (freed_standing (hstanding _)) hstanding
  · exact cases_on (P := fun ln => ln.want = ln.wants) (freed_want (hwant l)) (freed_want (hwant _)) hwant
  · refine holdLaw_of_pair (l := l) hhold (fun k hk hkp => storeLine_other _ _ hk hkp) hoe (fun q hq => ?_) ?_ ?_ ?_
    · rw [hexcl, get_set_ne _ _ hq]
    · rw [hoe, storeLine_self]
      exact freed_holding ⟨hholding.hold, hholding.blocked, hholding.pin⟩
    · rw [hoe, storeLine_mate]
      exact freed_holding (hhold (partner l)).1
    · rw [hexcl, get_set_self, storeLine_self, storeLine_mate]
      exact freed_paired (a := storedIn p s.lines[l]) ⟨hpaired.apart, hpaired.left, hpaired.right⟩ hbusy

theorem complete_outputLaw (r : Result) {s : State} (hs : OutputLaw s) : OutputLaw (complete r s) := hs

theorem serveWriteLine_outputLaw {s : State} (hs : OutputLaw s) : OutputLaw (serveWriteLine s) := by
  unfold serveWriteLine
  split
  · exact hs
  dsimp only
  split
  · exact hs
  · next hpass => exact complete_outputLaw _ (storeLine_outputLaw hpass hs)

/-- SILENCE needs demand under AUTO (R94). -/
theorem serveSilence_outputLaw {s : State} (hs : OutputLaw s) : OutputLaw (serveSilence s) := by
  unfold serveSilence
  split
  · exact hs
  next l _ =>
  split
  · exact hs
  · next h =>
    obtain ⟨hdemand, -, hmember, hcut⟩ := (outputLaw_iff.mp hs).1 l
    have hauto : s.lines[l].override = .auto ∧ s.lines[l].demand = true := by simpa [and_comm] using h
    exact complete_outputLaw _
      (updateWant_outputLaw false hs ⟨hdemand, fun _ => hauto, hmember, hcut⟩ ⟨rfl, rfl, rfl, rfl, rfl⟩)

/-- OVERRIDE ends a silence where it leaves AUTO (R93). -/
theorem serveOverride_outputLaw {s : State} (hs : OutputLaw s) : OutputLaw (serveOverride s) := by
  unfold serveOverride
  split
  · exact hs
  next l _ =>
  split
  · exact hs
  · next m _ =>
    obtain ⟨hdemand, hsilence, hmember, hcut⟩ := (outputLaw_iff.mp hs).1 l
    refine complete_outputLaw _
      (updateWant_outputLaw false hs ⟨hdemand, fun h => ?_, hmember, hcut⟩ ⟨rfl, rfl, rfl, rfl, rfl⟩)
    simp only [Line.withOverride] at h ⊢
    split at h
    · cases h
    · next hm =>
      obtain ⟨hauto, hd⟩ := hsilence h
      simp only [hauto, BEq.rfl, Bool.true_and, bne_iff_ne, not_not] at hm
      exact ⟨hm, hd⟩

/-- RESUME ends every cut, with SHUTOFF# not asserted (R101). -/
theorem serveResume_outputLaw {s : State} (hs : OutputLaw s) : OutputLaw (serveResume s) := by
  unfold serveResume
  split
  · exact hs
  · next h =>
    refine complete_outputLaw _ (outputLaw_of_pins (fun _ => false) hs (fun k => ?_) rfl (fun _ hshut => absurd hshut h)
      nofun)
    simp only [refreshPins, get_mapVec]

theorem takeLineCommand_outputLaw {s : State} (hs : OutputLaw s) : OutputLaw (takeLineCommand s) := by
  unfold takeLineCommand
  split
  · obtain ⟨-, hl, hx, ho, hsh, -⟩ := view_eq_iff.mp (view_serveReadLine s)
    exact outputLaw_congr hl hx ho hsh hs
  split
  · exact serveWriteLine_outputLaw hs
  split
  · exact serveSilence_outputLaw hs
  split
  · exact serveOverride_outputLaw hs
  split
  · exact serveResume_outputLaw hs
  · exact hs

/-! ## Contributions -/

theorem contribute_outputLaw (n : Fin 32) (dir : Direction) {s : State} (hs : OutputLaw s) :
    OutputLaw (contribute n dir s) := by
  unfold contribute
  split
  · exact hs
  · unfold setContribIf
    split
    · exact hs
    · exact setContrib_outputLaw (s := modEntry n _ s) _ _ _ hs

theorem reached_outputLaw (n : Fin 32) (d : Option Direction) {s : State} (hs : OutputLaw s) :
    OutputLaw (reached n d s) := by
  unfold reached
  split
  · rw [lineTaken_eq]
    exact takeLineCommand_outputLaw hs
  · exact hs

/-- An edge reaches the lines by its contribution step alone (R14, R15). -/
theorem moveWithEdge_outputLaw (n : Fin 32) (st : EntryState) (g : Edge) {s : State} (hs : OutputLaw s) :
    OutputLaw (moveWithEdge n st g s) := by
  rw [moveWithEdge, edge_eq, recordStep_frame, captureHandOver_frame]
  exact contribute_outputLaw (s := modEntry n _ (reached n (some g.dir) (modEntry n _ s))) n g.dir
    (reached_outputLaw (s := modEntry n _ s) n _ hs)

theorem shapingExpiry_outputLaw (n : Fin 32) {s : State} (hs : OutputLaw s) : OutputLaw (shapingExpiry n s) := by
  have htaken := takeLineCommand_outputLaw hs
  unfold shapingExpiry
  dsimp only
  split
  · exact setContrib_outputLaw (s := modEntry n _ (takeLineCommand s)) _ _ _ htaken
  · exact setContrib_outputLaw (s := modEntry n _ (takeLineCommand s)) _ _ _ htaken
  · exact hs

theorem withdraw_outputLaw (n : Fin 32) {s : State} (hs : OutputLaw s) : OutputLaw (withdraw n s) := by
  unfold withdraw
  dsimp only
  split
  · exact setContrib_outputLaw (s := modEntry n _ s) _ _ _ hs
  · exact hs

/-- A line after RESTART (R107). -/
theorem restartOutputs_outputLaw {s : State} (hs : OutputLaw s) : OutputLaw (restartOutputs s) := by
  have hline (k : Fin 16) : (restartOutputs s).lines[k] = s.lines[k].restarted := get_mapVec _ _ _
  obtain ⟨hstanding, -, -⟩ := outputLaw_iff.mp hs
  refine outputLaw_iff.mpr ⟨fun k => ?_, fun k => ?_, fun k => ?_⟩
  · rw [hline]
    have hempty : false = anyContrib (Vector.replicate 32 false) := by decide
    exact ⟨hempty, nofun, (hstanding k).member, (hstanding k).cut⟩
  · rw [hline]
    rfl
  · rw [hline, hline]
    exact ⟨⟨rfl, nofun, rfl⟩, ⟨fun _ h => absurd h.1 nofun, nofun, nofun⟩⟩

theorem restartEngine_outputLaw {s : State} (hs : OutputLaw s) : OutputLaw (restartEngine s) :=
  outputLaw_congr (by rw [restartEngine]) (by rw [restartEngine]) (by rw [restartEngine]) (by rw [restartEngine]) hs

theorem withEngine_outputLaw (e : Engine) {s : State} (hs : OutputLaw s) : OutputLaw (withEngine e s) := hs

/-! ## Every event keeps the laws -/

theorem event_outputLaw {s t : State} (h : Event s t) (hs : OutputLaw s) : OutputLaw t := by
  cases h with
  | quiet _ k =>
    obtain ⟨-, hl, hx, ho, hsh, -⟩ := View.mk.injEq .. ▸ k
    exact outputLaw_congr hl hx ho hsh hs
  | writeLine => exact serveWriteLine_outputLaw hs
  | silence => exact serveSilence_outputLaw hs
  | override => exact serveOverride_outputLaw hs
  | resume => exact serveResume_outputLaw hs
  | outputEnable b =>
    obtain ⟨hstanding, -⟩ := outputLaw_iff.mp hs
    exact outputLaw_of_pins (fun k => s.lines[k].cut) hs (fun k => get_mapVec _ _ _) rfl
      (fun k => (hstanding k).member) (fun k => (hstanding k).cut)
  | cutoff =>
    obtain ⟨hstanding, -⟩ := outputLaw_iff.mp hs
    refine outputLaw_of_pins (fun k => s.lines[k].cut || s.lines[k].cutMember) hs (fun k => ?_) rfl
      (fun k _ hm => by rw [hm, Bool.or_true]) (fun k hc => ?_)
    · simp only [assertShutoff, request, handOver, refreshPins, get_mapVec, Line.cutOff]
    · exact (Bool.or_eq_true_iff.mp hc).elim (hstanding k).cut id
  | release =>
    obtain ⟨hstanding, hrest⟩ := outputLaw_iff.mp hs
    exact outputLaw_iff.mpr ⟨fun k => ⟨(hstanding k).demand, (hstanding k).silence, nofun, (hstanding k).cut⟩, hrest⟩
  | edge n => exact moveWithEdge_outputLaw n _ _ hs
  | expiry => exact shapingExpiry_outputLaw _ hs
  | disarm n => exact withdraw_outputLaw (s := modEntry n _ s) n hs
  | store | arm => exact hs
  | restartEngine => exact restartEngine_outputLaw hs
  | restartOutputs => exact withEngine_outputLaw _ (restartOutputs_outputLaw hs)
  | powerOn => exact outputLaw_of_powerOn (powerOn_line s)

/-- Settles O8: each event of a step keeps the laws; in power-on reset no line is a member that a fall of SHUTOFF# could
cut. -/
theorem stepKeepsOutputLaw : Obligations.StepKeepsOutputLaw := by
  intro s t hreset hs hstep
  rcases step_events hstep with h | ⟨hr, h⟩
  · exact h.keeps (fun _ _ => event_outputLaw) hs
  · refine outputLaw_of_powerOn fun l => ?_
    have hlines : t.lines = s.lines := congrArg View.lines h
    rw [hlines, hreset hr]
    exact powerOn_line s l

end Sys2Proof.OutputLaws
end

section
/-! PROOFS. The law of contributions is kept by every step (O10). First what it goes by, entry by entry; then events that
move no contribution set; then the change of one entry, with the set of its line; then RESTART. -/

namespace Sys2Proof.ContributionLaws

open Sys2Proof.Machine Sys2Proof.Safety Sys2Proof.Claims Sys2Proof.WatchTable Sys2Proof.Contributions Sys2Proof.Handling
  Sys2Proof.Edges Sys2Proof.TableCommands Sys2Proof.OutputEvents Sys2Proof.OutputLaws Sys2Proof.Evaluations

/-! ## One entry -/

theorem loaded_eq_false {t : Timer} : t.loaded = false ↔ t = .unloaded := by
  cases t <;> simp [Timer.loaded]

/-- The shaping law, with the timer seen only as loaded or not (R85, R86, R88). -/
theorem shapingLaw_iff {e : Entry} : ShapingLaw e ↔
    (e.cfg.output = none ∨ e.state = .disarmed ∨ e.cfg.shaping = .level → e.shape.loaded = false ∧ e.phase = false)
      ∧ (e.cfg.shaping = .pulse → e.phase = false)
      ∧ (e.cfg.output ≠ none → e.cfg.shaping = .blink → (e.shape.loaded = true ↔ e.state.inFamily = true))
      ∧ (e.phase = true → e.state.inFamily = true) := by
  rw [loaded_eq_false]

theorem shapingLaw_of_alike {e e' : Entry} (h : Alike e e') (he : ShapingLaw e) : ShapingLaw e' := by
  rw [shapingLaw_iff] at he ⊢
  rwa [h.output, h.shaping, h.loaded, h.phase, h.family, h.disarmed]

theorem contributes_of_alike {e e' : Entry} (h : Alike e e') : contributes e' = contributes e := by
  unfold contributes
  rw [h.shaping, h.family, h.loaded, h.phase]

/-- An entry outside the tripped family with its shaping timer unloaded and its phase OFF. -/
structure Idle (e : Entry) : Prop where
  shape : e.shape = .unloaded
  phase : e.phase = false
  family : e.state.inFamily = false

theorem Idle.shapingLaw {e : Entry} (h : Idle e) : ShapingLaw e := by
  obtain ⟨hs, hp, hf⟩ := h
  rw [shapingLaw_iff, hs, hp, hf]
  exact ⟨fun _ => ⟨rfl, rfl⟩, fun _ => rfl, fun _ _ => .rfl, id⟩

theorem Idle.not_contributes {e : Entry} (h : Idle e) : contributes e = false := by
  obtain ⟨hs, hp, hf⟩ := h
  rw [contributes, hs, hp, hf]
  cases e.cfg.shaping <;> rfl

/-- A PULSE entry whose phase is OFF; its timer may be loaded where it is armed and has an output (R86). -/
theorem pulse_lawful {e : Entry} (hs : e.cfg.shaping = .pulse) (hp : e.phase = false)
    (h : (e.cfg.output ≠ none ∧ e.state ≠ .disarmed) ∨ e.shape = .unloaded) : ShapingLaw e := by
  refine ⟨fun hi => ⟨?_, hp⟩, fun _ => hp, fun _ hb => ?_, fun ht => ?_⟩
  · rcases h with ⟨ho, hd⟩ | hu
    · rcases hi with hi | hi | hi
      · exact absurd hi ho
      · exact absurd hi hd
      · cases hs.symm.trans hi
    · exact hu
  · cases hs.symm.trans hb
  · cases hp.symm.trans ht

/-- A BLINK entry with an output in the tripped family, its timer loaded (R88). -/
theorem blink_lawful {e : Entry} (hs : e.cfg.shaping = .blink) (ho : e.cfg.output ≠ none) (hd : e.state ≠ .disarmed)
    (hl : e.shape.loaded = true) (hf : e.state.inFamily = true) : ShapingLaw e := by
  refine ⟨fun hi => ?_, fun hp => ?_, fun _ _ => iff_of_true hl hf, fun _ => hf⟩
  · rcases hi with hi | hi | hi
    · exact absurd hi ho
    · exact absurd hi hd
    · cases hs.symm.trans hi
  · cases hs.symm.trans hp

/-- A DISARMED entry is idle (Table 3-1, R85, R90). -/
theorem idle_of_disarmed {e : Entry} (he : ShapingLaw e) (hd : e.state = .disarmed) : Idle e := by
  obtain ⟨hshape, hphase⟩ := he.1 (.inr (.inl hd))
  exact ⟨hshape, hphase, by rw [hd]; rfl⟩

/-- The arm-time state is idle (R53). -/
theorem armTime_idle (limit : Half) (e : Entry) : Idle (e.armTime limit) := by
  refine ⟨rfl, rfl, ?_⟩
  simp only [Entry.armTime, Entry.cancelShape, Entry.cancelQual]
  cases e.cfg.startInhibit <;> rfl

/-! ## The law of a state -/

theorem contributionLaw_iff {s : State} (hw : withdrawalsWait s = false) : ContributionLaw s ↔
    ∀ n : Fin 32, ShapingLaw s.entries[n] ∧ ∀ l : Fin 16,
      (s.lines[l].contrib[n] = true ↔ s.entries[n].cfg.output = some l ∧ contributes s.entries[n] = true) :=
  forall_congr' fun _ => and_congr_right' (by rw [if_neg (by rw [hw]; exact Bool.false_ne_true)])

theorem contributionLaw_iff_of_withdrawing {s : State} (hw : withdrawalsWait s = true) : ContributionLaw s ↔
    ∀ n : Fin 32, ShapingLaw s.entries[n] ∧ contributes s.entries[n] = false :=
  forall_congr' fun _ => and_congr_right' (by rw [if_pos hw])

/-- The contribution set of every line is as it was. -/
def SetsKept (s t : State) : Prop :=
  ∀ l : Fin 16, t.lines[l].contrib = s.lines[l].contrib

/-- Where no set moves and every entry is alike, the law stands. -/
theorem contributionLaw_of_alike {s t : State} (he : ∀ n : Fin 32, Alike s.entries[n] t.entries[n]) (hsets : SetsKept s t)
    (hw : withdrawalsWait t = withdrawalsWait s) (hs : ContributionLaw s) : ContributionLaw t := by
  intro n
  obtain ⟨hlaw, hset⟩ := hs n
  refine ⟨shapingLaw_of_alike (he n) hlaw, ?_⟩
  rw [hw, contributes_of_alike (he n), (he n).output]
  simpa only [hsets _] using hset

/-! ## Line commands -/

/-- An event of the output unit that moves no contribution set. -/
structure LineWork (s t : State) : Prop where
  entries : t.entries = s.entries
  engine : t.engine = s.engine
  sets : SetsKept s t

theorem LineWork.refl (s : State) : LineWork s s := ⟨rfl, rfl, fun _ => rfl⟩

theorem LineWork.complete {s t : State} (h : LineWork s t) (r : Result) : LineWork s (complete r t) :=
  ⟨h.entries, h.engine, h.sets⟩

theorem LineWork.withdrawalsWait {s t : State} (h : LineWork s t) : withdrawalsWait t = withdrawalsWait s := by
  rw [Safety.withdrawalsWait, Safety.withdrawalsWait, h.engine]

theorem LineWork.contributionLaw {s t : State} (h : LineWork s t) (hs : ContributionLaw s) : ContributionLaw t :=
  contributionLaw_of_alike (fun _ => h.entries ▸ .refl _) h.sets h.withdrawalsWait hs

theorem updateWant_contrib (i : Bool) (l k : Fin 16) (s : State) :
    (updateWant i l s).lines[k].contrib = s.lines[k].contrib := by
  obtain ⟨want, hold, blocked, pin, e⟩ := updateWant_lines i l k s
  rw [e]

/-- A change of a line that is no change of its set, carried through (R92 to R97). -/
theorem updateWant_lineWork (i : Bool) {l : Fin 16} {f : Line → Line} {s : State}
    (hf : (f s.lines[l]).contrib = s.lines[l].contrib) : LineWork s (updateWant i l (modLine l f s)) := by
  have hframe := updateWant_frame i l (modLine l f s)
  refine ⟨by rw [hframe]; rfl, by rw [hframe]; rfl, fun k => ?_⟩
  rw [updateWant_contrib]
  by_cases hk : k = l
  · subst hk
    rwa [modLine_self]
  · rw [modLine_other _ _ hk]

theorem freed_contrib (ends oe : Bool) (ln : Line) : (freed ends oe ln).contrib = ln.contrib := by
  unfold freed
  split <;> rfl

theorem storeLine_lineWork (l : Fin 16) (p : LineProposal) (s : State) : LineWork s (storeLine l p s) := by
  have hframe := storeLine_frame l p s
  refine ⟨by rw [hframe], by rw [hframe], fun k => ?_⟩
  by_cases hk : k = l
  · subst hk
    rw [storeLine_self, freed_contrib]
    rfl
  by_cases hkp : k = partner l
  · subst hkp
    rw [storeLine_mate, freed_contrib]
  · rw [storeLine_other _ _ hk hkp]

theorem serveWriteLine_lineWork (s : State) : LineWork s (serveWriteLine s) := by
  unfold serveWriteLine
  split
  · exact (LineWork.refl s).complete _
  dsimp only
  split
  · exact (LineWork.refl s).complete _
  · exact (storeLine_lineWork _ _ s).complete _

theorem serveSilence_lineWork (s : State) : LineWork s (serveSilence s) := by
  unfold serveSilence
  split
  · exact (LineWork.refl s).complete _
  split
  · exact (LineWork.refl s).complete _
  · exact LineWork.complete (updateWant_lineWork _ rfl) _

theorem serveOverride_lineWork (s : State) : LineWork s (serveOverride s) := by
  unfold serveOverride
  split
  · exact (LineWork.refl s).complete _
  split
  · exact (LineWork.refl s).complete _
  · exact LineWork.complete (updateWant_lineWork _ rfl) _

theorem LineWork.trans {s t u : State} (h : LineWork s t) (k : LineWork t u) : LineWork s u :=
  ⟨k.entries.trans h.entries, k.engine.trans h.engine, fun l => (k.sets l).trans (h.sets l)⟩

/-- Every line changed, but not its set. -/
theorem mapLines_lineWork {f : Line → Line} (hf : ∀ ln : Line, (f ln).contrib = ln.contrib) (s : State) :
    LineWork s { s with lines := mapVec f s.lines } :=
  ⟨rfl, rfl, fun k => by rw [get_mapVec, hf]⟩

/-- OE, SHUTOFF# and the cuts reach no contribution set (R99, R101, R102). -/
theorem refreshPins_lineWork (s : State) : LineWork s (refreshPins s) :=
  mapLines_lineWork (f := Line.withPin s.oe) (fun _ => rfl) s

theorem serveResume_lineWork (s : State) : LineWork s (serveResume s) := by
  unfold serveResume
  split
  · exact (LineWork.refl s).complete _
  · exact ((mapLines_lineWork (f := fun ln => { ln with cut := false }) (fun _ => rfl) s).trans (refreshPins_lineWork _)).complete _

theorem assertShutoff_lineWork (s : State) : LineWork s (assertShutoff s) := by
  have hcut := (mapLines_lineWork (f := Line.cutOff) (fun _ => rfl) { s with shutoff := true }).trans
    (refreshPins_lineWork _)
  exact ⟨hcut.entries, hcut.engine, hcut.sets⟩

theorem takeLineCommand_lineWork (s : State) : LineWork s (takeLineCommand s) := by
  unfold takeLineCommand
  split
  · obtain ⟨he, hl, -⟩ := view_eq_iff.mp (view_serveReadLine s)
    refine ⟨he, ?_, fun k => by rw [hl]⟩
    unfold serveReadLine
    split <;> rfl
  split
  · exact serveWriteLine_lineWork s
  split
  · exact serveSilence_lineWork s
  split
  · exact serveOverride_lineWork s
  split
  · exact serveResume_lineWork s
  · exact .refl s

/-! ## A change of one entry -/

/-- The law stands where it stands for the one entry that has changed, and for the sets as far as they concern it. -/
theorem contributionLaw_of_entry {n : Fin 32} {s t : State} (hws : withdrawalsWait s = false)
    (hwt : withdrawalsWait t = false) (hothers : OthersKept n s t)
    (hsets : ∀ (l : Fin 16) (m : Fin 32), m ≠ n → t.lines[l].contrib[m] = s.lines[l].contrib[m])
    (hlaw : ShapingLaw t.entries[n])
    (hset : ∀ l : Fin 16,
      (t.lines[l].contrib[n] = true ↔ t.entries[n].cfg.output = some l ∧ contributes t.entries[n] = true))
    (hs : ContributionLaw s) : ContributionLaw t := by
  rw [contributionLaw_iff hws] at hs
  refine (contributionLaw_iff hwt).mpr fun m => ?_
  by_cases hm : m = n
  · exact hm ▸ ⟨hlaw, hset⟩
  · rw [hothers m hm]
    simpa only [hsets _ m hm] using hs m

section
variable {n : Fin 32} {f : Entry → Entry} {s : State} (hw : withdrawalsWait s = false) (hs : ContributionLaw s)
  (hlaw : ShapingLaw (f s.entries[n]))
include hw hs hlaw

/-- A change of an entry that moves no set: neither its output nor whether it contributes changes, or it is idle before
and behind. -/
theorem modEntry_contributionLaw
    (hset : ∀ l : Fin 16, (s.entries[n].cfg.output = some l ∧ contributes s.entries[n] = true) ↔
      ((f s.entries[n]).cfg.output = some l ∧ contributes (f s.entries[n]) = true)) :
    ContributionLaw (modEntry n f s) := by
  refine contributionLaw_of_entry hw hw (othersKept_modEntry n f s) (fun _ _ _ => rfl) (by rwa [modEntry_self])
    (fun l => ?_) hs
  rw [modEntry_self]
  exact (((contributionLaw_iff hw).mp hs n).2 l).trans (hset l)

/-- A change of an entry that comes with the change of its line's set (R84 to R90). -/
theorem setContrib_contributionLaw {l : Fin 16} {b : Bool} (hout : s.entries[n].cfg.output = some l)
    (hcfg : (f s.entries[n]).cfg = s.entries[n].cfg) (hb : contributes (f s.entries[n]) = b) :
    ContributionLaw (setContrib l n b (modEntry n f s)) := by
  have hentries : (setContrib l n b (modEntry n f s)).entries = (modEntry n f s).entries := setContrib_entries ..
  have hcontrib (k : Fin 16) : (setContrib l n b (modEntry n f s)).lines[k].contrib =
      if k = l then s.lines[k].contrib.set n b else s.lines[k].contrib :=
    (setContrib_keeps l k n b (modEntry n f s)).2.2.2
  have hwt : withdrawalsWait (setContrib l n b (modEntry n f s)) = false := by
    rw [setContrib_frame]
    exact hw
  refine contributionLaw_of_entry (n := n) hw hwt (fun m hm => ?_) (fun k m hm => ?_) ?_ (fun k => ?_) hs
  · rw [hentries]
    exact othersKept_modEntry n f s m hm
  · rw [hcontrib]
    split
    · exact get_set_ne _ _ hm
    · rfl
  · rwa [hentries, modEntry_self]
  · rw [hcontrib, hentries, modEntry_self, hcfg, hb, hout]
    split
    · next hk => rw [get_set_self, hk, and_iff_right rfl]
    · next hk =>
      refine iff_of_false (fun h => ?_) fun h => hk (Option.some.inj h.1).symm
      exact hk (Option.some.inj (hout.symm.trans ((((contributionLaw_iff hw).mp hs n).2 k).mp h).1)).symm

end

/-- A change of a contributing entry's other fields, or of an entry that does not contribute before and behind. -/
theorem sets_of_idle {e e' : Entry} (h : contributes e = false) (h' : contributes e' = false) (l : Fin 16) :
    (e.cfg.output = some l ∧ contributes e = true) ↔ (e'.cfg.output = some l ∧ contributes e' = true) := by
  rw [h, h']
  exact iff_of_false (fun k => Bool.false_ne_true k.2) fun k => Bool.false_ne_true k.2

/-! ## Edges -/

/-- What an edge makes of its entry, the state it moves to and the trip count with it (R14, R52). -/
def edged (st : EntryState) (dir : Direction) (e : Entry) : Entry :=
  Entry.counted dir { e with state := st }

theorem edged_fields (st : EntryState) (dir : Direction) (e : Entry) : (edged st dir e).cfg = e.cfg
    ∧ (edged st dir e).state = st ∧ (edged st dir e).shape = e.shape ∧ (edged st dir e).phase = e.phase := by
  cases dir <;> exact ⟨rfl, rfl, rfl, rfl⟩

section
variable {e : Entry} {st : EntryState} {dir : Direction} (he : ShapingLaw e) (hst : st ≠ .disarmed)
  (hf : st.inFamily = entersFamily dir)
include he hst

/-- An entry whose shaping timer and phase an edge leaves alone: it has no output, or is no BLINK (R85, R86). -/
theorem edged_shapingLaw (h : e.cfg.output = none ∨ e.cfg.shaping ≠ .blink) : ShapingLaw (edged st dir e) := by
  obtain ⟨hcfg, hstate, hshape, hphase⟩ := edged_fields st dir e
  obtain ⟨hidle, hpulse, -, -⟩ := he
  have off : e.phase = false := by
    rcases h with ho | hb
    · exact (hidle (.inl ho)).2
    · cases hs : e.cfg.shaping
      · exact (hidle (.inr (.inr hs))).2
      · exact hpulse hs
      · exact absurd hs hb
  simp only [ShapingLaw, hcfg, hstate, hshape, hphase]
  refine ⟨fun hi => ?_, hpulse, fun ho hb => ?_, fun hp => absurd (off.symm.trans hp) nofun⟩
  · exact hidle (hi.imp_right fun k => k.elim (fun hd => absurd hd hst) .inr)
  · exact h.elim (fun hn => absurd hn ho) fun hn => absurd hb hn

include hf

/-- What the contribution step makes of an entry with an output is lawful, and the change of the set is what the entry
then contributes (R85, R86, R88). -/
theorem shaped_lawful (ho : e.cfg.output ≠ none) : ShapingLaw (shaped dir (edged st dir e))
    ∧ contributes (shaped dir (edged st dir e)) = (contribChange e.cfg.shaping dir).getD (contributes e) := by
  obtain ⟨hcfg, hstate, hshape, hphase⟩ := edged_fields st dir e
  have plain (h : e.cfg.shaping ≠ .blink) := edged_shapingLaw (dir := dir) he hst (.inr h)
  obtain ⟨-, hpulse, -, -⟩ := he
  cases hs : e.cfg.shaping <;> cases dir <;>
    simp only [shaped, hcfg, hs, contribChange, Option.getD_some, Option.getD_none]
  case level.trip | level.clear =>
    refine ⟨plain (by rw [hs]; nofun), ?_⟩
    simp only [contributes, hcfg, hs, hstate]
    exact hf
  case pulse.clear =>
    refine ⟨plain (by rw [hs]; nofun), ?_⟩
    simp only [contributes, hcfg, hs, hshape]
  case pulse.trip =>
    refine ⟨pulse_lawful (hcfg.symm ▸ hs) (hphase.trans (hpulse hs)) (.inl ⟨?_, ?_⟩), ?_⟩
    · exact hcfg.symm ▸ ho
    · exact hstate.symm ▸ hst
    · simp only [Entry.loadShape, contributes, hcfg, hs, Timer.loaded]
  case blink.trip =>
    refine ⟨blink_lawful (hcfg.symm ▸ hs) ?_ ?_ rfl ?_, ?_⟩
    · exact hcfg.symm ▸ ho
    · exact hstate.symm ▸ hst
    · exact hstate.symm ▸ hf
    · simp only [Entry.loadShape, contributes, hs]
  case blink.clear =>
    have hidle : Idle (Entry.cancelShape { edged st .clear e with phase := false }) :=
      ⟨rfl, rfl, (congrArg EntryState.inFamily hstate).trans hf⟩
    exact ⟨hidle.shapingLaw, hidle.not_contributes⟩

end

theorem reached_lineWork (n : Fin 32) (d : Option Direction) (s : State) : LineWork s (reached n d s) := by
  unfold reached
  split
  · rw [lineTaken_eq]
    exact takeLineCommand_lineWork s
  · exact .refl s

/-- The contribution step on the entry that has moved (R14, R15). -/
theorem contribute_contributionLaw {n : Fin 32} {st : EntryState} {dir : Direction} {s : State}
    (hw : withdrawalsWait s = false) (hst : st ≠ .disarmed) (hf : st.inFamily = entersFamily dir)
    (hs : ContributionLaw s) : ContributionLaw (contribute n dir (modEntry n (edged st dir) s)) := by
  have he := ((contributionLaw_iff hw).mp hs n).1
  have hcfg := (edged_fields st dir s.entries[n]).1
  unfold contribute
  rw [modEntry_self, hcfg, modEntry_modEntry]
  cases ho : s.entries[n].cfg.output with
  | none =>
    refine modEntry_contributionLaw hw hs (edged_shapingLaw he hst (.inl ho)) fun l => ?_
    rw [hcfg, ho]
    exact iff_of_false (fun h => nomatch h.1) fun h => nomatch h.1
  | some l =>
    obtain ⟨hlaw, hset⟩ := shaped_lawful he hst hf (by rw [ho]; nofun)
    have hcfg' : (shaped dir (edged st dir s.entries[n])).cfg = s.entries[n].cfg := (shaped_cfg _ _).trans hcfg
    dsimp only
    unfold setContribIf
    split
    · next hc =>
      rw [hc, Option.getD_none] at hset
      exact modEntry_contributionLaw hw hs hlaw fun k => by rw [hcfg', hset]
    · next b hc =>
      rw [hc, Option.getD_some] at hset
      exact setContrib_contributionLaw hw hs hlaw ho hcfg' hset

/-- An edge reaches the sets by its contribution step alone, behind the line command that waits (R14, R15, R84). -/
theorem moveWithEdge_contributionLaw {n : Fin 32} {st : EntryState} {g : Edge} {s : State}
    (hw : withdrawalsWait s = false) (hst : st ≠ .disarmed) (hf : st.inFamily = entersFamily g.dir)
    (hs : ContributionLaw s) : ContributionLaw (moveWithEdge n st g s) := by
  have hreached := reached_lineWork n (some g.dir) s
  have h : ContributionLaw (contribute n g.dir (modEntry n (edged st g.dir) (reached n (some g.dir) s))) :=
    contribute_contributionLaw (hreached.withdrawalsWait.trans hw) hst hf (hreached.contributionLaw hs)
  rw [moveWithEdge, edge_eq, recordStep_frame, captureHandOver_frame,
    reached_modEntry (f := fun e => { e with state := st }) _ rfl, modEntry_modEntry]
  exact h

/-! ## Shaping expiries, DISARM, ARM, WRITE_ENTRY -/

/-- A live shaping expiry ends a pulse or toggles a blink; an entry that has no output or is LEVEL has none (R44, R85, R87,
R89). -/
theorem shapingExpiry_contributionLaw {n : Fin 32} {s : State} (hw : withdrawalsWait s = false)
    (hx : s.entries[n].shape = .expired) (hs : ContributionLaw s) : ContributionLaw (shapingExpiry n s) := by
  have htaken := takeLineCommand_lineWork s
  have hwt := htaken.withdrawalsWait.trans hw
  have hst := htaken.contributionLaw hs
  have hentry : (takeLineCommand s).entries[n] = s.entries[n] := by rw [htaken.entries]
  obtain ⟨hidle, hpulse, hblink, -⟩ := ((contributionLaw_iff hw).mp hs n).1
  have live : ¬ (s.entries[n].cfg.output = none ∨ s.entries[n].state = .disarmed ∨ s.entries[n].cfg.shaping = .level) :=
    fun h => nomatch hx.symm.trans (hidle h).1
  unfold shapingExpiry
  dsimp only
  split
  · next l ho hshaping =>
    refine setContrib_contributionLaw hwt hst ?_ (by rw [hentry]; exact ho) rfl ?_ <;> rw [hentry]
    · exact pulse_lawful hshaping (hpulse hshaping) (.inr rfl)
    · simp only [contributes, hshaping, Timer.loaded]
  · next l ho hshaping =>
    have hfamily : s.entries[n].state.inFamily = true :=
      (hblink (by rw [ho]; nofun) hshaping).mp (by rw [hx]; rfl)
    refine setContrib_contributionLaw hwt hst ?_ (by rw [hentry]; exact ho) rfl ?_ <;> rw [hentry]
    · exact blink_lawful hshaping (by rw [ho]; nofun) (fun hd => live (.inr (.inl hd))) rfl hfamily
    · simp only [contributes, hshaping]
  · next hneither1 hneither2 =>
    refine absurd ?_ live
    cases ho : s.entries[n].cfg.output with
    | none => exact .inl rfl
    | some l =>
      cases hshaping : s.entries[n].cfg.shaping with
      | level => exact .inr (.inr rfl)
      | pulse => exact absurd hshaping (hneither1 l ho)
      | blink => exact absurd hshaping (hneither2 l ho)

/-- DISARM withdraws its entry (R54, R90). -/
theorem disarm_contributionLaw {n : Fin 32} {s : State} (hw : withdrawalsWait s = false) (hs : ContributionLaw s) :
    ContributionLaw (withdraw n (modEntry n disarmed s)) := by
  have hidle : Idle (Entry.cancelShape { disarmed s.entries[n] with phase := false }) := ⟨rfl, rfl, rfl⟩
  rw [withdraw_eq, modEntry_modEntry, modEntry_self]
  split
  · next l ho => exact setContrib_contributionLaw hw hs hidle.shapingLaw ho rfl hidle.not_contributes
  · next ho =>
    refine modEntry_contributionLaw hw hs hidle.shapingLaw fun l => ?_
    replace ho : s.entries[n].cfg.output = none := ho
    have hout : (Entry.cancelShape { disarmed s.entries[n] with phase := false }).cfg.output = none := ho
    rw [ho, hout]
    exact iff_of_false (fun h => nomatch h.1) fun h => nomatch h.1

/-- A change of an entry that is idle before and behind. -/
theorem modEntry_contributionLaw_of_idle {n : Fin 32} {f : Entry → Entry} {s : State} (hw : withdrawalsWait s = false)
    (hs : ContributionLaw s) (hbefore : Idle s.entries[n]) (hbehind : Idle (f s.entries[n])) :
    ContributionLaw (modEntry n f s) :=
  modEntry_contributionLaw hw hs hbehind.shapingLaw (sets_of_idle hbefore.not_contributes hbehind.not_contributes)

/-- WRITE_ENTRY keeps output and shaping mode of an armed entry, and a DISARMED one does not contribute (R11, R85). -/
theorem store_contributionLaw {n : Fin 32} {c : EntryConfig} {s : State} (hw : withdrawalsWait s = false)
    (hfix : s.entries[n].state ≠ .disarmed → FixedFieldsEqual s.entries[n].cfg c) (hs : ContributionLaw s) :
    ContributionLaw (modEntry n (fun e => { e with cfg := c }) s) := by
  have he := ((contributionLaw_iff hw).mp hs n).1
  by_cases hd : s.entries[n].state = .disarmed
  · have hidle := idle_of_disarmed he hd
    exact modEntry_contributionLaw_of_idle hw hs hidle ⟨hidle.shape, hidle.phase, hidle.family⟩
  · obtain ⟨-, -, -, -, -, -, -, houtput, hshaping, -⟩ := hfix hd
    have halike : Alike s.entries[n] { s.entries[n] with cfg := c } :=
      ⟨houtput.symm, hshaping.symm, rfl, rfl, rfl, .rfl⟩
    exact modEntry_contributionLaw hw hs (shapingLaw_of_alike halike he) fun l => by
      rw [contributes_of_alike halike, halike.output]

/-! ## RESTART and power-on reset -/

/-- The engine's part of RESTART: no entry contributes any more, and the withdrawals wait (R60). -/
theorem restartEngine_contributionLaw {s : State} (hs : ContributionLaw s) : ContributionLaw (restartEngine s) := by
  have hwaits : withdrawalsWait (restartEngine s) = true := by simp only [withdrawalsWait, restartEngine, Bool.not_false]
  refine (contributionLaw_iff_of_withdrawing hwaits).mpr fun n => ?_
  have hentry : (restartEngine s).entries[n] = s.entries[n].restarted s.entries := get_mapVec _ _ _
  have hidle : Idle (s.entries[n].restarted s.entries) := by
    unfold Entry.restarted
    split
    · next hd => exact idle_of_disarmed (hs n).1 (by simpa using hd)
    · exact armTime_idle _ _
  rw [hentry]
  exact ⟨hidle.shapingLaw, hidle.not_contributes⟩

/-- The output unit's part empties every set (R107). -/
theorem restartOutputs_contributionLaw (ch port irq rec : Bool) {s : State} (hw : withdrawalsWait s = true)
    (hs : ContributionLaw s) :
    ContributionLaw (withEngine (.restarting true ch port irq rec) (restartOutputs s)) := by
  have hdone : withdrawalsWait (withEngine (.restarting true ch port irq rec) (restartOutputs s)) = false := by
    simp only [withdrawalsWait, withEngine, Bool.not_true]
  have hentries : (withEngine (.restarting true ch port irq rec) (restartOutputs s)).entries = s.entries := by
    rw [withEngine_entries, restartOutputs]
  refine (contributionLaw_iff hdone).mpr fun n => ?_
  obtain ⟨hlaw, hnone⟩ := (contributionLaw_iff_of_withdrawing hw).mp hs n
  have hempty (l : Fin 16) : (restartOutputs s).lines[l].contrib[n] = false := by
    rw [restartOutputs, get_mapVec]
    simp [Line.restarted]
  rw [hentries]
  refine ⟨hlaw, fun l => iff_of_false (fun h => ?_) fun h => ?_⟩
  · exact nomatch (hempty l).symm.trans h
  · exact nomatch hnone.symm.trans h.2

/-- In power-on reset nothing contributes (R177). -/
theorem powerOn_contributionLaw (s : State) : ContributionLaw (powerOn s) :=
  contributionLaw_of_alike (s := State.reset) (fun _ => .refl _) (fun _ => rfl) rfl AtReset.contributionLaw_reset

/-! ## Every event keeps the law -/

theorem event_contributionLaw {s t : State} (h : Event s t) (hs : ContributionLaw s) : ContributionLaw t := by
  cases h with
  | quiet halike k =>
    obtain ⟨-, hlines, -, -, -, hwaits⟩ := View.mk.injEq .. ▸ k
    exact contributionLaw_of_alike halike (fun l => congrArg (fun v : Vector Line 16 => v[l].contrib) hlines) hwaits hs
  | writeLine => exact (serveWriteLine_lineWork s).contributionLaw hs
  | silence => exact (serveSilence_lineWork s).contributionLaw hs
  | override => exact (serveOverride_lineWork s).contributionLaw hs
  | resume => exact (serveResume_lineWork s).contributionLaw hs
  | outputEnable b => exact (refreshPins_lineWork { s with oe := b }).contributionLaw hs
  | cutoff => exact (assertShutoff_lineWork s).contributionLaw hs
  | release => exact hs
  | edge n hw hst hf => exact moveWithEdge_contributionLaw hw hst hf hs
  | expiry hw hx => exact shapingExpiry_contributionLaw hw hx hs
  | disarm n hw => exact disarm_contributionLaw hw hs
  | store hw hfix => exact store_contributionLaw hw hfix hs
  | arm limit hw hd =>
    exact modEntry_contributionLaw_of_idle hw hs (idle_of_disarmed ((contributionLaw_iff hw).mp hs _).1 hd)
      (armTime_idle limit _)
  | restartEngine => exact restartEngine_contributionLaw hs
  | restartOutputs ch port irq rec hw => exact restartOutputs_contributionLaw ch port irq rec hw hs
  | powerOn => exact powerOn_contributionLaw s

/-- Settles O10: each event of a step keeps the law, and SHUTOFF# in power-on reset reaches no set. -/
theorem stepKeepsContributionLaw : Obligations.StepKeepsContributionLaw := by
  intro s t hs hstep
  rcases step_events hstep with h | ⟨-, h⟩
  · exact h.keeps (fun _ _ => event_contributionLaw) hs
  · have hlowered : view t = view { s with shutoff := true } := h
    obtain ⟨hentries, hlines, -, -, -, hwaits⟩ := view_eq_iff.mp hlowered
    exact contributionLaw_of_alike (fun _ => hentries ▸ .refl _) (fun l => by rw [hlines]) hwaits hs

end Sys2Proof.ContributionLaws
end

section
/-! PROOFS. What the line commands do (O33, O34, O35): WRITE_LINE stores and frees, SILENCE and OVERRIDE change one line,
and want, hold, blocked and pin follow. -/

namespace Sys2Proof.LineCommands

open Sys2Proof.Machine Sys2Proof.Safety Sys2Proof.Claims Sys2Proof.Contributions Sys2Proof.QueueCommands Sys2Proof.Refusals
  Sys2Proof.OutputLaws

/-! ## SILENCE and OVERRIDE -/

/-- A change of one line that leaves its want, hold, blocked and CONFLICT fields alone, carried through as a line command
does it: what follows on the lines, and the CONFLICT record (R92 to R97). -/
theorem wantFollows_of_change {l : Fin 16} {f : Line → Line} {s : State} (hlaw : OutputLaw s)
    (hsame : SameHold s.lines[l] (f s.lines[l]))
    (hevent : (f s.lines[l]).conflictEvent = s.lines[l].conflictEvent)
    (hsev : (f s.lines[l]).conflictSeverity = s.lines[l].conflictSeverity) :
    WantFollows l (f s.lines[l]) s (complete .ok (updateWant false l (modLine l f s))) := by
  have hrest := linesRest_of_outputLaw hlaw l
  exact ⟨updateWant_follows false hrest hsame.want hsame.hold hsame.blocked,
    updateWant_waiting false hrest hsame.want hsame.blocked hevent hsev⟩

/-- The completion of a line command reaches the lines and what is handed over, and nothing else. -/
theorem complete_updateWant (l : Fin 16) (f : Line → Line) (s : State) {t : State}
    (ht : t = complete .ok (updateWant false l (modLine l f s))) :
    t = completed .ok { s with lines := t.lines, waiting := t.waiting } := by
  have hframe := updateWant_frame false l (modLine l f s)
  subst ht
  rw [complete_lines, complete_waiting, complete_eq_completed]
  exact congrArg (completed .ok) hframe

section
variable {s : State} {l : Fin 16}

/-- SILENCE of a line in demand under AUTO (R94). -/
theorem silence_served (hw : Waits .silence s) (hl : Index l s) (hd : s.lines[l].demand = true)
    (ho : s.lines[l].override = .auto) : exec .silence s =
      .next (complete .ok (updateWant false l (modLine l (fun ln => { ln with silenced := true }) s))) := by
  have hpass : ¬ (!s.lines[l].demand || s.lines[l].override != .auto) = true := by simp [-Fin.getElem_fin, hd, ho]
  simp only [exec, execSilence, if_pos (ready_iff.mpr hw), serveSilence, lineArg_of_index hl, if_neg hpass]

theorem override_ofCode_eq_some {k : Nat} {m : Override} (h : k = overrideCode m) : Override.ofCode k = some m := by
  subst h
  cases m <;> rfl

/-- OVERRIDE with a mode (R93). -/
theorem override_served {m : Override} (hw : Waits .override s) (hl : Index l s)
    (hm : s.cmd.captured1.toNat = overrideCode m) : exec .override s =
      .next (complete .ok (updateWant false l (modLine l (Line.withOverride m) s))) := by
  simp only [exec, execOverride, if_pos (ready_iff.mpr hw), serveOverride, lineArg_of_index hl,
    override_ofCode_eq_some hm]

end

theorem withOverride_eq (m : Override) (ln : Line) : Line.withOverride m ln =
    { ln with override := m, silenced := if ln.override = .auto ∧ m ≠ .auto then false else ln.silenced } := by
  simp only [Line.withOverride, Bool.and_eq_true, beq_iff_eq, bne_iff_ne]

/-- Settles O34: SILENCE sets silenced and brings want up to date. -/
theorem silenceQuietsALineInDemand : Obligations.SilenceQuietsALineInDemand := by
  intro s l hlaw hw hl hd ho
  exact ⟨_, silence_served hw hl hd ho, complete_updateWant l _ s rfl,
    wantFollows_of_change (f := fun ln => { ln with silenced := true }) hlaw ⟨rfl, rfl, rfl, rfl, rfl⟩ rfl rfl⟩

/-- Settles O35: OVERRIDE stores the mode, which may end a silence, and brings want up to date. -/
theorem overrideSetsTheMode : Obligations.OverrideSetsTheMode := by
  intro s l m hlaw hw hl hm
  refine ⟨_, override_served hw hl hm, complete_updateWant l _ s rfl, ?_⟩
  rw [← withOverride_eq]
  exact wantFollows_of_change hlaw ⟨rfl, rfl, rfl, rfl, rfl⟩ rfl rfl

/-! ## WRITE_LINE -/

theorem outLevel_eq (s : State) (l : Fin 16) : outLevel s l =
    if s.lines[l].polarity = .activeLow then !s.lines[l].pinActive else s.lines[l].pinActive := by
  unfold outLevel
  cases s.lines[l].polarity <;> rfl

theorem freed_polarity (ends oe : Bool) (ln : Line) : (freed ends oe ln).polarity = ln.polarity := by
  unfold freed
  split <;> rfl

/-- The fields of the proposal in staging byte 0 (R105). -/
theorem storedIn_parseLine (b : Byte) (ln : Line) : storedIn (parseLine b) ln = { ln with
    polarity := if b.getLsbD 0 then .activeLow else .activeHigh
    cutMember := b.getLsbD 1
    conflictEvent := b.getLsbD 2
    conflictSeverity := b.extractLsb' 4 2 } := by
  have hsev : BitVec.ofNat 2 (b.toNat / 16) = b.extractLsb' 4 2 := by
    apply BitVec.eq_of_toNat_eq
    simp [Nat.shiftRight_eq_div_pow]
  rw [storedIn, parseLine, hsev]
  rfl

section
variable {s : State} {l : Fin 16}

/-- A WRITE_LINE that passes its checks (R105, R106). -/
theorem writeLine_served (hw : Waits .writeLine s) (hl : Index l s) (hpass : lineRefusal l (parseLine s.cmd.seen[0]) s = none) :
    exec .writeLine s = .next (complete .ok (storeLine l (parseLine s.cmd.seen[0]) s)) := by
  simp only [exec, execWriteLine, if_pos (ready_iff.mpr hw), serveWriteLine, lineArg_of_index hl, hpass]

end

/-- The occasion on which WRITE_LINE frees a blocked line (R106). -/
theorem frees_iff (old new blocked : Bool) :
    ((old && !new) = true ∧ blocked = true) ↔ (old = true ∧ new = false ∧ blocked = true) := by
  rw [Bool.and_eq_true, Bool.not_eq_true', and_assoc]

/-- Settles O33: the two lines of the pair as WRITE_LINE leaves them, and no other. -/
theorem writeLineStoresAndFreesTheBlockedLine : Obligations.WriteLineStoresAndFreesTheBlockedLine := by
  intro s l hw hl hmember hbusy
  have hframe := storeLine_frame l (parseLine s.cmd.seen[0]) s
  refine ⟨complete .ok (storeLine l (parseLine s.cmd.seen[0]) s),
    writeLine_served hw hl (lineRefusal_eq_none.mpr ⟨hmember, hbusy⟩), ?_,
    fun k hk hkp => storeLine_other _ _ hk hkp, ?_, ?_⟩
  · rw [complete_lines, complete_eq_completed]
    exact congrArg (completed .ok) hframe
  · have hself := storeLine_self l (parseLine s.cmd.seen[0]) s
    have hpolarity : (storeLine l (parseLine s.cmd.seen[0]) s).lines[l].polarity =
        if s.cmd.seen[0].getLsbD 0 then .activeLow else .activeHigh := by
      rw [hself, freed_polarity, storedIn_parseLine]
    rw [outLevel_eq, complete_lines, hpolarity]
    cases s.cmd.seen[0].getLsbD 0 <;> rfl
  · rintro k (rfl | rfl)
    · refine ⟨storedIn (parseLine s.cmd.seen[0]) s.lines[k], fun h => absurd rfl h, fun _ => storedIn_parseLine _ _, ?_⟩
      rw [complete_lines, storeLine_self]
      exact if_congr (frees_iff _ _ _) rfl rfl
    · refine ⟨s.lines[partner l], fun _ => rfl, fun h => absurd h (partner_ne l), ?_⟩
      rw [complete_lines, storeLine_mate]
      exact if_congr (frees_iff _ _ _) rfl rfl

end Sys2Proof.LineCommands
end

section
/-! PROOFS. SHUTOFF# and RESUME (O36), and the CONTROL write with OE and PORT_EN (O37). -/

namespace Sys2Proof.PinControl

open Sys2Proof.Machine Sys2Proof.Safety Sys2Proof.Claims Sys2Proof.Contributions Sys2Proof.QueueCommands Sys2Proof.Refusals
  Sys2Proof.Reads Sys2Proof.OutputLaws Sys2Proof.LineCommands

/-! ## Every pin -/

theorem refreshPins_line (s : State) (l : Fin 16) : (refreshPins s).lines[l] = Line.withPin s.oe s.lines[l] :=
  get_mapVec _ _ _

theorem refreshPins_frame (s : State) : refreshPins s = { s with lines := (refreshPins s).lines } := by
  rw [refreshPins]

/-! ## SHUTOFF# and RESUME -/

/-- A fall of SHUTOFF# as the output unit takes it (R99). -/
theorem assertShutoff_frame (s : State) : assertShutoff s = { s with
    shutoff := true
    lines := (assertShutoff s).lines
    waiting := s.waiting ++ [{ submitter := .outputUnit, item := s.workItem, loose := false, body := cutoffRecord }]
    intr := { s.intr with flags := s.intr.flags ||| 0x08 } } := by
  rw [assertShutoff, refreshPins]
  rfl

theorem assertShutoff_line (s : State) (l : Fin 16) : (assertShutoff s).lines[l] = { s.lines[l] with
    cut := s.lines[l].cut || s.lines[l].cutMember
    pinActive := s.lines[l].hold && s.oe && !(s.lines[l].cut || s.lines[l].cutMember) } := by
  simp only [assertShutoff, request, handOver, refreshPins, get_mapVec, Line.cutOff, Line.withPin]

/-- A fall of SHUTOFF# outside power-on reset comes behind the line command that waits (R84, R99). -/
theorem shutoffAssert_taken {s : State} (hs : s.shutoff = false) (hr : s.inReset = false) :
    exec .shutoffAssert s = .next (assertShutoff (lineTaken s)) := by
  rw [exec, execShutoffAssert, hs, hr, lineTaken_eq]
  rfl

theorem shutoffRelease_taken (s : State) : exec .shutoffRelease s =
    .next (if s.shutoff = true then { lineTaken s with shutoff := false } else s) := by
  rw [lineTaken_eq]
  rfl

/-- RESUME with SHUTOFF# not asserted ends every cut (R101). -/
theorem resume_served {s : State} (hw : Waits .resume s) (hs : s.shutoff = false) : exec .resume s =
    .next (complete .ok (refreshPins { s with lines := mapVec (fun ln => { ln with cut := false }) s.lines })) := by
  rw [exec, execResume, if_pos (ready_iff.mpr hw), serveResume, hs]
  rfl

/-- Settles O36: each event written out, on what the waiting line command leaves. -/
theorem cutoffAndResume : Obligations.CutoffAndResume := by
  refine ⟨fun s hs hr => ?_, fun s => ⟨fun hs => ?_, fun hs => ?_⟩, fun s => resume_shutoffActive, fun s hw hs => ?_⟩
  · obtain ⟨hitem, hoe⟩ : (lineTaken s).workItem = s.workItem ∧ (lineTaken s).oe = s.oe := by
      rw [lineTaken_eq, takeLineCommand_work s]
      exact ⟨rfl, rfl⟩
    refine ⟨_, shutoffAssert_taken hs hr, ?_, fun l => ?_⟩
    · rw [← hitem]
      exact assertShutoff_frame (lineTaken s)
    · rw [← hoe]
      exact assertShutoff_line (lineTaken s) l
  · rw [shutoffRelease_taken, if_pos hs]
  · rw [shutoffRelease_taken, hs]
    rfl
  · refine ⟨_, resume_served hw hs, ?_, fun l => ?_⟩
    · rw [complete_lines, complete_eq_completed]
      exact congrArg (completed .ok) (refreshPins_frame _)
    · simp only [complete_lines, refreshPins_line, get_mapVec, Line.withPin, Bool.not_false, Bool.and_true]

/-! ## What the output unit does not go by -/

section
variable (s : State)

theorem updateWant_floatData (i : Bool) (l : Fin 16) : updateWant i l (floatData s) = floatData (updateWant i l s) := by
  have hraise : raiseWant i l (floatData s) = floatData (raiseWant i l s) := by
    simp only [raiseWant, handOverIf_eq, apply_ite floatData]
    rfl
  have hdrop : dropWant l (floatData s) = floatData (dropWant l s) := by
    rw [dropWant_eq, dropWant_eq, apply_ite floatData]
    rfl
  unfold updateWant
  rw [hraise, hdrop, apply_ite floatData, apply_ite floatData]
  rfl

theorem storeLine_floatData (l : Fin 16) (p : LineProposal) : storeLine l p (floatData s) = floatData (storeLine l p s) := by
  rw [storeLine_eq, storeLine_eq, apply_ite floatData]
  rfl

/-- A line command does not go by D7 to D0. -/
theorem takeLineCommand_floatData : takeLineCommand (floatData s) = floatData (takeLineCommand s) := by
  have hready (c : Command) : ready c (floatData s) = ready c s := rfl
  have harg : lineArg (floatData s) = lineArg s := rfl
  have hmod (l : Fin 16) (f : Line → Line) : modLine l f (floatData s) = floatData (modLine l f s) := rfl
  have hread : serveReadLine (floatData s) = floatData (serveReadLine s) := by
    rw [serveReadLine, serveReadLine, harg]
    cases lineArg s <;> rfl
  have hwrite : serveWriteLine (floatData s) = floatData (serveWriteLine s) := by
    have hrefusal (l : Fin 16) (p : LineProposal) : lineRefusal l p (floatData s) = lineRefusal l p s := rfl
    simp only [serveWriteLine, harg, hrefusal, floatData_cmd, storeLine_floatData]
    cases lineArg s with
    | none => rfl
    | some l => cases h : lineRefusal l (parseLine s.cmd.seen[0]) s <;> simp only [h] <;> rfl
  have hsilence : serveSilence (floatData s) = floatData (serveSilence s) := by
    simp only [serveSilence, harg, hmod, updateWant_floatData]
    cases lineArg s with
    | none => rfl
    | some l =>
      rw [apply_ite floatData]
      rfl
  have hoverride : serveOverride (floatData s) = floatData (serveOverride s) := by
    simp only [serveOverride, harg, hmod, floatData_cmd, updateWant_floatData]
    cases lineArg s with
    | none => rfl
    | some l => cases Override.ofCode s.cmd.captured1.toNat <;> rfl
  have hresume : serveResume (floatData s) = floatData (serveResume s) := by
    rw [serveResume, serveResume, apply_ite floatData]
    rfl
  simp only [takeLineCommand, hready, hread, hwrite, hsilence, hoverride, hresume, apply_ite floatData]

end

/-! ## The CONTROL write -/

/-- What a change of OE finds (R84, R102): the line command that waits has been taken. -/
def beforeOe (b : Bool) (s : State) : State :=
  if b = s.oe then s else lineTaken s

/-- The lines behind a write of OE (R102). -/
def linesAtOe (b : Bool) (s : State) : Vector Line 16 :=
  if b = s.oe then s.lines else mapVec (Line.withPin b) (lineTaken s).lines

/-- What a change of PORT_EN finds (R144, R151): the command that waits with the port has been taken. -/
def beforePortEnable (b enabled : Bool) (u : State) : State :=
  if b = enabled then u else portTaken u

/-- The port behind a write of PORT_EN (R151). -/
def portAtEnable (b : Bool) (s w : State) : Port :=
  if b = s.port.enabled then s.port else Port.enable b s.sfrm w.port

/-- The output unit's part of a CONTROL write. -/
theorem writeOe_eq (b : Bool) (s : State) :
    writeOe b (floatData s) = { beforeOe b s with oe := b, lines := linesAtOe b s, dataOut := none } := by
  unfold writeOe beforeOe linesAtOe
  by_cases hb : b = s.oe
  · rw [if_pos (by rw [hb]; exact BEq.rfl), if_pos hb, if_pos hb, hb]
    rfl
  · rw [if_neg (by rw [beq_iff_eq]; exact hb), if_neg hb, if_neg hb, takeLineCommand_floatData, lineTaken_eq, refreshPins]
    rfl

theorem takePortCommand_withPins (b : Bool) (lines : Vector Line 16) (d : Option Byte) (u : State) :
    takePortCommand { u with oe := b, lines := lines, dataOut := d } =
      { takePortCommand u with oe := b, lines := lines, dataOut := d } := by
  have hready : ready .clearPortCounts { u with oe := b, lines := lines, dataOut := d } = ready .clearPortCounts u := rfl
  unfold takePortCommand
  rw [hready]
  cases ready .clearPortCounts u <;> rfl

theorem beforeOe_frame (b : Bool) (s : State) :
    (beforeOe b s).port = s.port ∧ (beforeOe b s).sfrm = s.sfrm := by
  unfold beforeOe
  split
  · exact ⟨rfl, rfl⟩
  · rw [lineTaken_eq, takeLineCommand_work s]
    exact ⟨rfl, rfl⟩

/-- A CONTROL write as a whole (R163). -/
theorem writeControl_eq (v : Byte) {s w : State}
    (hw : w = beforePortEnable (v.getLsbD 1) s.port.enabled (beforeOe (v.getLsbD 0) s)) :
    writeControl v (floatData s) = { w with
      oe := v.getLsbD 0, lines := linesAtOe (v.getLsbD 0) s, port := portAtEnable (v.getLsbD 1) s w, dataOut := none } := by
  obtain ⟨hport, hsfrm⟩ := beforeOe_frame (v.getLsbD 0) s
  subst hw
  unfold writeControl writePortEnable hasBit beforePortEnable portAtEnable
  rw [writeOe_eq, hport, hsfrm]
  by_cases hb : v.getLsbD 1 = s.port.enabled
  · rw [if_pos (by rw [hb]; exact BEq.rfl), if_pos hb, if_pos hb, ← hport]
  · rw [if_neg (by rw [beq_iff_eq]; exact hb), if_neg hb, if_neg hb, takePortCommand_withPins, portTaken_eq]
    rfl

/-- The three rows of a CONTROL write are one write (R163, log 13). -/
theorem control_rows (v : Byte) {s : State} (hr : s.inReset = false) :
    ∀ c ∈ [Instr.oeChange v, .portEnChange v, .registerWrite 0x03 v],
      exec c s = .next (writeControl v (floatData s)) := by
  have hwrite (f : State → State) : hostWrite f s = f (floatData s) := by
    rw [hostWrite, hr]
    rfl
  simp only [List.forall_mem_cons, List.not_mem_nil, false_imp_iff, implies_true, and_true]
  refine ⟨?_, ?_, ?_⟩ <;> exact congrArg Host.Outcome.next (hwrite _)

/-- A pin is high exactly while it is active under ACTIVE_HIGH or inactive under ACTIVE_LOW (R102, R181). -/
theorem outLevel_iff (s : State) (l : Fin 16) :
    outLevel s l = true ↔ (s.lines[l].pinActive = true ↔ s.lines[l].polarity = .activeHigh) := by
  unfold outLevel
  cases s.lines[l].polarity <;> simp

/-- The lines of the state a CONTROL write finds at the port are those it finds at the output unit. -/
theorem beforePortEnable_lines (b enabled : Bool) (u : State) : (beforePortEnable b enabled u).lines = u.lines := by
  unfold beforePortEnable
  split
  · rfl
  · rw [portTaken_eq]
    rcases takePortCommand_cases u with ⟨-, h⟩ | ⟨-, h⟩ <;> rw [h]
    rfl

/-- A write that changes OE sets every pin anew (R102). -/
theorem linesAtOe_of_change {b : Bool} {s : State} (h : b ≠ s.oe) (l : Fin 16) :
    (linesAtOe b s)[l] = Line.withPin b (beforeOe b s).lines[l] := by
  rw [linesAtOe, if_neg h, beforeOe, if_neg h, get_mapVec]

/-- Settles O37: the write as a whole, and what it is where a bit changes and where it does not. -/
theorem controlWriteSetsPinsAndPort : Obligations.ControlWriteSetsPinsAndPort := by
  refine ⟨fun s l => ⟨outLevel_iff s l, fun hlaw => ?_⟩, fun s v hr => ?_⟩
  · obtain ⟨⟨-, -, -, -, hpin⟩, -⟩ := hlaw l
    rw [outLevel_iff, hpin, Bool.and_eq_true, Bool.and_eq_true, Bool.not_eq_true', and_assoc]
  · have heq := writeControl_eq v (s := s) rfl
    refine ⟨writeControl v (floatData s), beforeOe (v.getLsbD 0) s,
      beforePortEnable (v.getLsbD 1) s.port.enabled (beforeOe (v.getLsbD 0) s), control_rows v hr, rfl, rfl, ?_⟩
    rw [heq]
    refine ⟨rfl, fun h => if_pos h, fun h l => ?_, fun h => if_pos h, fun hoff hon => ?_, fun hon hoff => ?_⟩
    · rw [beforePortEnable_lines]
      exact linesAtOe_of_change h l
    · have hchange : v.getLsbD 1 ≠ s.port.enabled := by rw [hoff, hon]; nofun
      rw [portAtEnable, if_neg hchange, hoff]
      rfl
    · have hchange : v.getLsbD 1 ≠ s.port.enabled := by rw [hoff, hon]; nofun
      rw [portAtEnable, if_neg hchange, hon]
      rfl

end Sys2Proof.PinControl
end

section
/-! PROOFS. The capture unit (O40): what each action makes of the accumulator, as an integer, and whose turn it is. -/

namespace Sys2Proof.CaptureUnit

open Sys2Proof.Machine

/-! ## Table 6-1 -/

section
variable {st : CaptureStep}

/-- SET stores the constant, whatever the edge value. -/
theorem captureResult_set (h : st.action = .set) (old : Word) : (captureResult st old).toInt = st.const.toInt := by
  have hlow := st.const.le_toInt
  have hhigh := st.const.toInt_lt
  simp only [captureResult, h]
  exact BitVec.toInt_ofInt_eq_self (by decide) (by omega) (by omega)

/-- ADD adds the constant and saturates (R112), whatever the edge value. -/
theorem captureResult_add (h : st.action = .add) (old : Word) : (captureResult st old).toInt =
    max (-2147483648) (min 2147483647 (old.toInt + st.const.toInt)) := by
  simp only [captureResult, h]
  exact sat32_toInt _

/-- EXCESS stores the value less the limit and plus the constant: the exact sum of three 16-bit fields, which fits. -/
theorem captureResult_excess {v : Half} (h : st.action = .excess) (hv : st.value = some v) (old : Word) :
    (captureResult st old).toInt = v.toInt - st.limit.toInt + st.const.toInt := by
  have hvalue := And.intro v.le_toInt v.toInt_lt
  have hlimit := And.intro st.limit.le_toInt st.limit.toInt_lt
  have hconst := And.intro st.const.le_toInt st.const.toInt_lt
  simp only [captureResult, h, hv]
  exact BitVec.toInt_ofInt_eq_self (by decide) (by omega) (by omega)

/-- COPY stores the value. -/
theorem captureResult_copy {v : Half} (h : st.action = .copy) (hv : st.value = some v) (old : Word) :
    (captureResult st old).toInt = v.toInt := by
  have hlow := v.le_toInt
  have hhigh := v.toInt_lt
  simp only [captureResult, h, hv]
  exact BitVec.toInt_ofInt_eq_self (by decide) (by omega) (by omega)

/-- EXCESS and COPY need the edge value: without it the accumulator stays (R113). -/
theorem captureResult_absent (h : st.action = .excess ∨ st.action = .copy) (hv : st.value = none) (old : Word) :
    captureResult st old = old := by
  rcases h with h | h <;> simp only [captureResult, h, hv]

end

/-! ## Whose turn it is -/

section
variable {s : State} {rest : List CaptureEvent}

/-- A step at the front is taken (R110, R111). -/
theorem captureStep_of_step {st : CaptureStep} (h : s.captures = .step st :: rest) : exec .captureStep s =
    .next { s with captures := rest, accs := s.accs.set st.acc (captureResult st s.accs[st.acc]) } := by
  simp only [exec, execCaptureStep, h, applyCapture]

/-- A step waits behind a command (R110). -/
theorem captureStep_of_command (h : s.captures = .command :: rest) : exec .captureStep s = .next s := by
  simp only [exec, execCaptureStep, h]

/-- A command waits behind a step (R110). -/
theorem takeAccCommand_of_step {st : CaptureStep} (h : s.captures = .step st :: rest) (c : Command) :
    takeAccCommand c s = none := by
  simp only [takeAccCommand, h]

end

/-- Settles O40: by the front of the list, and for a step by the action and the presence of the edge value. -/
theorem captureStepAppliesItsAction : Obligations.CaptureStepAppliesItsAction := by
  refine ⟨fun s st rest h => ⟨⟨_, captureStep_of_step h, ?_⟩, ?_, ?_⟩, fun s rest h => captureStep_of_command h⟩
  · split
    · next ha => exact captureResult_set ha _
    · next ha => exact captureResult_add ha _
    · next ha hv => exact captureResult_excess ha hv _
    · next ha hv => exact captureResult_copy ha hv _
    · next ha hv => exact captureResult_absent (.inl ha) hv _
    · next ha hv => exact captureResult_absent (.inr ha) hv _
  · simp only [exec, execReadAcc, takeAccCommand_of_step h]
  · simp only [exec, execWriteAcc, takeAccCommand_of_step h]

end Sys2Proof.CaptureUnit
end

section
/-! PROOFS. Which commands can change an accumulator or a configuration (O17). The stored values are one projection of
the state (`view`). `Kept` says what an event can do to them that writes no accumulator and no entry; it is transitive,
and so it is carried through every operation and then through every command (`exec_stores`). -/

namespace Sys2Proof.StoredValues

open Sys2Proof.Machine Sys2Proof.Claims Sys2Proof.Contributions Sys2Proof.Handling Sys2Proof.Edges
  Sys2Proof.OutputLaws Sys2Proof.PinControl

/-! ## What is stored -/

/-- The configuration of a line and its pair's flag (R82, R105). -/
def lineConfig (exclusive : Bool) (ln : Line) : LineProposal where
  polarity := ln.polarity
  cutMember := ln.cutMember
  conflictEvent := ln.conflictEvent
  exclusive := exclusive
  conflictSeverity := ln.conflictSeverity

/-- The accumulators, the configurations, and which command is with its owner. -/
structure View where
  accs : Vector Word 8
  entries : Fin 32 → EntryConfig
  channels : Fin 16 → ChannelConfig
  lines : Fin 16 → LineProposal
  state : CommandState
  op : Byte

/-- What is stored in a state. -/
def view (s : State) : View where
  accs := s.accs
  entries n := s.entries[n].cfg
  channels k := s.channels[k].cfg
  lines l := lineConfig (isExclusive l s) s.lines[l]
  state := s.cmd.state
  op := s.cmd.op

/-- What a write of one element keeps of it, it keeps of every element of the table. -/
theorem get_set_of_same {α β : Type} {k : Nat} {v : Vector α k} {n : Fin k} {x : α} {g : α → β}
    (h : g x = g v[n]) (m : Fin k) : g (v.set n x)[m] = g v[m] := by
  rw [get_set]
  split
  · next e => rw [e, h]
  · rfl

section
variable {s : State}

/-- Two states with the same stored values and the same command. -/
theorem view_eq {t : State} (haccs : t.accs = s.accs) (hentries : ∀ n : Fin 32, t.entries[n].cfg = s.entries[n].cfg)
    (hchannels : ∀ k : Fin 16, t.channels[k].cfg = s.channels[k].cfg)
    (hexclusive : t.exclusive = s.exclusive)
    (hlines : ∀ (b : Bool) (l : Fin 16), lineConfig b t.lines[l] = lineConfig b s.lines[l])
    (hstate : t.cmd.state = s.cmd.state) (hop : t.cmd.op = s.cmd.op) : view t = view s := by
  have hconfig (l : Fin 16) : lineConfig (isExclusive l t) t.lines[l] = lineConfig (isExclusive l s) s.lines[l] := by
    rw [hlines, isExclusive, isExclusive, hexclusive]
  simp only [view, haccs, hentries, hchannels, hconfig, hstate, hop]

/-- A change of the lines that keeps every configuration. -/
theorem view_withLines {v : Vector Line 16}
    (h : ∀ (b : Bool) (l : Fin 16), lineConfig b v[l] = lineConfig b s.lines[l]) :
    view { s with lines := v } = view s :=
  view_eq rfl (fun _ => rfl) (fun _ => rfl) rfl h rfl rfl

theorem view_modEntry {n : Fin 32} {f : Entry → Entry} (h : (f s.entries[n]).cfg = s.entries[n].cfg) :
    view (modEntry n f s) = view s :=
  view_eq rfl (get_set_of_same (g := Entry.cfg) h) (fun _ => rfl) rfl (fun _ _ => rfl) rfl rfl

theorem view_modChannel {c : Fin 16} {f : Channel → Channel} (h : (f s.channels[c]).cfg = s.channels[c].cfg) :
    view (modChannel c f s) = view s :=
  view_eq rfl (fun _ => rfl) (get_set_of_same (g := Channel.cfg) h) rfl (fun _ _ => rfl) rfl rfl

theorem view_modLine {l : Fin 16} {f : Line → Line}
    (h : ∀ b : Bool, lineConfig b (f s.lines[l]) = lineConfig b s.lines[l]) : view (modLine l f s) = view s :=
  view_withLines fun b => get_set_of_same (h b)

theorem view_mapLines {f : Line → Line} (h : ∀ (b : Bool) (ln : Line), lineConfig b (f ln) = lineConfig b ln) :
    view { s with lines := mapVec f s.lines } = view s :=
  view_withLines fun b l => by rw [get_mapVec, h]

end

/-! ## What an event keeps -/

/-- Command `d` was with its owner, and has completed. -/
abbrev Completes (d : Command) (s t : State) : Prop :=
  Waits d s ∧ t.cmd.state = .done

/-- No accumulator and no entry's configuration changes, a channel's or a line's only with the completion of
WRITE_CHANNEL or WRITE_LINE, and the command stands as it was or has completed. -/
structure Kept (s t : State) : Prop where
  accs : t.accs = s.accs
  entries : (view t).entries = (view s).entries
  channels : (view t).channels = (view s).channels ∨ Completes .writeChannel s t
  lines : (view t).lines = (view s).lines ∨ Completes .writeLine s t
  command : (t.cmd.state = s.cmd.state ∧ t.cmd.op = s.cmd.op) ∨ t.cmd.state = .done

section
variable {s t u : State}

theorem Kept.of_view (h : view t = view s) : Kept s t where
  accs := congrArg View.accs h
  entries := congrArg View.entries h
  channels := .inl (congrArg View.channels h)
  lines := .inl (congrArg View.lines h)
  command := .inl ⟨congrArg View.state h, congrArg View.op h⟩

theorem Kept.refl (s : State) : Kept s s := .of_view rfl

/-- What is done stays done. -/
theorem Kept.done (h : Kept s t) (hs : s.cmd.state = .done) : t.cmd.state = .done :=
  h.command.elim (fun e => e.1.trans hs) id

/-- What waits behind an event has waited before it. -/
theorem Kept.waits {d : Command} (h : Kept s t) (ht : Waits d t) : Waits d s := by
  rcases h.command with ⟨hstate, hop⟩ | hdone
  · exact ⟨hstate ▸ ht.1, hop ▸ ht.2⟩
  · exact absurd (hdone.symm.trans ht.1) nofun

/-- A part of the view that changes only with the completion of `d`, over two events. -/
theorem unlessCompletes_trans {α : Type} {d : Command} {part : View → α} (hst : Kept s t) (htu : Kept t u)
    (h : part (view t) = part (view s) ∨ Completes d s t) (k : part (view u) = part (view t) ∨ Completes d t u) :
    part (view u) = part (view s) ∨ Completes d s u := by
  rcases h with h | ⟨hwaits, hdone⟩
  · exact k.imp (·.trans h) fun ⟨hwaits, hdone⟩ => ⟨hst.waits hwaits, hdone⟩
  · exact .inr ⟨hwaits, htu.done hdone⟩

theorem Kept.trans (h : Kept s t) (k : Kept t u) : Kept s u where
  accs := k.accs.trans h.accs
  entries := k.entries.trans h.entries
  channels := unlessCompletes_trans h k h.channels k.channels
  lines := unlessCompletes_trans h k h.lines k.lines
  command := by
    rcases k.command with ⟨hstate, hop⟩ | hdone
    · exact h.command.imp (fun e => ⟨hstate.trans e.1, hop.trans e.2⟩) hstate.trans
    · exact .inr hdone

/-- An event before another that leaves the stored values alone. -/
theorem Kept.before (h : Kept s t) (k : view u = view t) : Kept s u := h.trans (.of_view k)

/-- An event behind another that leaves the stored values alone. -/
theorem Kept.after (k : Kept t u) (h : view t = view s) : Kept s u := (Kept.of_view h).trans k

/-- The engine's place is nothing that is stored. -/
theorem Kept.withEngine {e : Engine} (h : Kept s t) : Kept s { t with engine := e } := h.before rfl

/-- A completion (R168) changes nothing that is stored. -/
theorem Kept.complete {r : Result} (h : Kept s t) : Kept s (complete r t) :=
  h.trans ⟨rfl, rfl, .inl rfl, .inl rfl, .inr rfl⟩

end

/-! ## The channel unit -/

theorem serveReadChannel_kept (s : State) : Kept s (serveReadChannel s) := by
  unfold serveReadChannel
  split
  · exact .complete (.refl s)
  · exact .complete (.of_view rfl)

/-- WRITE_CHANNEL stores a configuration and completes (R139, R140). -/
theorem serveWriteChannel_kept {s : State} (h : ready .writeChannel s = true) : Kept s (serveWriteChannel s) := by
  unfold serveWriteChannel
  split
  · exact .complete (.refl s)
  split
  · exact .complete (.refl s)
  split
  · exact .complete (.refl s)
  · exact ⟨rfl, rfl, .inr ⟨ready_iff.mp h, rfl⟩, .inl rfl, .inr rfl⟩

theorem takeChannelCommand_kept (c : Fin 16) (s : State) : Kept s (takeChannelCommand c s) := by
  unfold takeChannelCommand
  split
  · exact .refl s
  split
  · exact serveReadChannel_kept s
  split
  · next h => exact serveWriteChannel_kept h
  · exact .refl s

theorem view_handOverIf (b : Bool) (who : Submitter) (loose : Bool) (r : RecordBody) (s : State) :
    view (handOverIf b who loose r s) = view s := by
  rw [handOverIf_eq]
  rfl

theorem expired_cfg (ch : Channel) : ch.expired.cfg = ch.cfg := by
  unfold Channel.expired
  split <;> rfl

theorem restarted_cfg (ch : Channel) : ch.restarted.cfg = ch.cfg := by
  unfold Channel.restarted
  split <;> rfl

theorem channelTick_kept (c : Fin 16) (s : State) : Kept s (channelTick c s) := by
  rcases channelTick_cases c s with ⟨-, h⟩ | ⟨-, -, h⟩ | ⟨-, -, h⟩ <;> rw [h]
  · exact .refl s
  · have expiry (u : State) : view (freshnessExpiry c u) = view u :=
      (view_handOverIf _ _ _ _ _).trans (view_modChannel (expired_cfg _))
    exact ((takeChannelCommand_kept c _).before (expiry _)).after rfl
  · exact .after (.of_view (view_modChannel rfl)) rfl

theorem takeArrival_kept (fromPort : Bool) (c : Fin 16) (raw : Half) (status : SampleStatus) (s : State) :
    Kept s (takeArrival fromPort c raw status s).2 := by
  unfold takeArrival
  dsimp only
  split
  · exact (takeChannelCommand_kept c s).before (view_modChannel rfl)
  · exact takeChannelCommand_kept c s

theorem view_settle (c : Fin 16) (item : Item) (s : State) : view (settle c item s).2 = view s := by
  unfold settle
  split
  · unfold settleSample
    dsimp only
    split <;> exact (view_handOverIf _ _ _ _ _).trans (view_modChannel rfl)
  · rfl

theorem settleTaken_kept (c : Fin 16) (item : Item) (s : State) : Kept s (settleTaken c item s) :=
  (takeChannelCommand_kept c s).before (view_settle c item _)

/-! ## The engine's choice -/

/-- Where the engine takes an item, the command that waits for its channel is taken before (R36, R120). -/
theorem chooseWork_kept (s : State) : Kept s (chooseWork s) := by
  rcases chooseWork_cases s with ⟨-, h⟩ | ⟨-, -, -, h⟩ | ⟨c, -, -, h⟩ | ⟨c, item, -, -, -, -, h⟩ <;> rw [h]
  · exact .refl s
  · exact .refl s
  · exact .of_view rfl
  · have emptied : view (modChannel c (fun ch => { ch with slot := none }) (takeChannelCommand c s)) =
        view (takeChannelCommand c s) := view_modChannel rfl
    exact ((takeChannelCommand_kept c s).before emptied).before rfl

theorem comeFree_kept (s : State) : Kept s (comeFree s) :=
  .after (chooseWork_kept _) rfl

theorem endService_kept (r : Result) (s : State) : Kept s (endService r s) :=
  (Kept.refl s).complete.trans (comeFree_kept _)

theorem channelTicks_kept (s : State) : Kept s (channelTicks s) := by
  have fold : ∀ (cs : List (Fin 16)) (u : State), Kept u (cs.foldl (fun u c => channelTick c u) u) := by
    intro cs
    induction cs with
    | nil => exact .refl
    | cons c cs ih => exact fun u => (channelTick_kept c u).trans (ih _)
  exact (fold _ s).trans (chooseWork_kept _)

theorem view_bankTimers (s : State) : view (bankTimers s) = view s := by
  have entry (n : Fin 32) : (bankTimers s).entries[n].cfg = s.entries[n].cfg := by
    rw [WatchTable.bankTimers_entry, WatchTable.tick_cfg]
  rw [bankTimers_frame]
  exact view_eq rfl entry (fun _ => rfl) rfl (fun _ _ => rfl) rfl rfl

theorem bankTick_kept (s : State) : Kept s (bankTick s) := by
  rcases bankTick_cases s with ⟨-, h⟩ | ⟨-, h⟩ <;> rw [h]
  · exact .refl s
  · exact (chooseWork_kept _).after (view_bankTimers s)

theorem view_endInterval (s : State) : view (endInterval s) = view s := by
  unfold endInterval
  split <;> rfl

theorem view_stampTick (s : State) : view (stampTick s) = view s := by
  unfold stampTick
  split <;> rfl

theorem tick_kept (s : State) : Kept s (tick s) :=
  ((bankTick_kept _).trans (channelTicks_kept _)).after ((view_stampTick _).trans (view_endInterval s))

/-! ## The output unit -/

/-- Want, hold, blocked and pin are no part of a line's configuration (R92 to R97). -/
theorem view_updateWant (loose : Bool) (l : Fin 16) (s : State) : view (updateWant loose l s) = view s := by
  rw [updateWant_frame loose l s]
  refine view_withLines fun b k => ?_
  obtain ⟨want, hold, blocked, pin, h⟩ := updateWant_lines loose l k s
  rw [h]
  rfl

theorem view_setContrib (l : Fin 16) (n : Fin 32) (b : Bool) (s : State) : view (setContrib l n b s) = view s :=
  (view_updateWant true l _).trans (view_modLine fun _ => rfl)

theorem view_refreshPins (s : State) : view (refreshPins s) = view s :=
  view_mapLines fun _ _ => rfl

/-- WRITE_LINE stores a configuration and completes (R105, R106). -/
theorem serveWriteLine_kept {s : State} (h : ready .writeLine s = true) : Kept s (serveWriteLine s) := by
  unfold serveWriteLine
  dsimp only
  split
  · exact .complete (.refl s)
  split
  · exact .complete (.refl s)
  · rw [storeLine_frame]
    exact ⟨rfl, rfl, .inl rfl, .inr ⟨ready_iff.mp h, rfl⟩, .inr rfl⟩

theorem serveReadLine_kept (s : State) : Kept s (serveReadLine s) := by
  unfold serveReadLine
  split
  · exact .complete (.refl s)
  · exact .complete (.of_view rfl)

theorem serveSilence_kept (s : State) : Kept s (serveSilence s) := by
  unfold serveSilence
  split
  · exact .complete (.refl s)
  split
  · exact .complete (.refl s)
  · exact .complete (.of_view ((view_updateWant _ _ _).trans (view_modLine fun _ => rfl)))

theorem serveOverride_kept (s : State) : Kept s (serveOverride s) := by
  unfold serveOverride
  split
  · exact .complete (.refl s)
  split
  · exact .complete (.refl s)
  · exact .complete (.of_view ((view_updateWant _ _ _).trans (view_modLine fun _ => rfl)))

theorem serveResume_kept (s : State) : Kept s (serveResume s) := by
  unfold serveResume
  split
  · exact .complete (.refl s)
  · refine .complete (.of_view ?_)
    rw [view_refreshPins]
    exact view_mapLines fun _ _ => rfl

theorem takeLineCommand_kept (s : State) : Kept s (takeLineCommand s) := by
  unfold takeLineCommand
  split
  · exact serveReadLine_kept s
  split
  · next h => exact serveWriteLine_kept h
  split
  · exact serveSilence_kept s
  split
  · exact serveOverride_kept s
  split
  · exact serveResume_kept s
  · exact .refl s

theorem writeOe_kept (b : Bool) (s : State) : Kept s (writeOe b s) := by
  unfold writeOe
  split
  · exact .refl s
  · exact (takeLineCommand_kept s).before ((view_refreshPins _).trans rfl)

theorem view_assertShutoff (s : State) : view (assertShutoff s) = view s := by
  rw [assertShutoff_frame]
  exact view_eq rfl (fun _ => rfl) (fun _ => rfl) rfl (fun b l => by rw [assertShutoff_line]; rfl) rfl rfl

/-! ## Work on one entry -/

theorem reached_kept (n : Fin 32) (d : Option Direction) (s : State) : Kept s (reached n d s) := by
  unfold reached
  split
  · rw [lineTaken_eq]
    exact takeLineCommand_kept s
  · exact .refl s

/-- The contribution step takes the line command that waits, and changes no configuration itself (R15, R84). -/
theorem contributionStep_kept (n : Fin 32) (dir : Direction) (s : State) : Kept s (contributionStep n dir s) := by
  rw [contributionStep_eq]
  refine (reached_kept n (some dir) s).before ?_
  unfold contribute setContribIf
  split
  · rfl
  split
  · exact view_modEntry (shaped_cfg dir _)
  · exact (view_setContrib _ _ _ _).trans (view_modEntry (shaped_cfg dir _))

theorem view_captureHandOver (n : Fin 32) (g : Edge) (s : State) : view (captureHandOver n g s) = view s := by
  unfold captureHandOver
  dsimp only
  split
  · rfl
  · split <;> rfl

theorem moveWithEdge_kept (n : Fin 32) (st : EntryState) (g : Edge) (s : State) : Kept s (moveWithEdge n st g s) := by
  have counted (u : State) : view (modEntry n (Entry.counted g.dir) u) = view u :=
    view_modEntry (by cases g.dir <;> rfl)
  have moved : view (modEntry n (fun e => { e with state := st }) s) = view s := view_modEntry rfl
  exact ((contributionStep_kept n g.dir _).after ((counted _).trans moved)).before
    ((view_handOverIf _ _ _ _ _).trans (view_captureHandOver n g _))

theorem movedTo_cfg (st : EntryState) (timer : Option Timer) (e : Entry) : (movedTo st timer e).cfg = e.cfg := by
  cases timer <;> rfl

theorem transition_kept (n : Fin 32) (active : Bool) (v : Option Half) (s : State) :
    Kept s (transition n active v s) := by
  rw [transition_eq]
  split
  · exact .of_view (view_modEntry (movedTo_cfg _ _ _))
  · exact moveWithEdge_kept n _ _ s

theorem handleEntry_kept (n : Fin 32) (input : EvalInput) (s : State) : Kept s (handleEntry n input s) := by
  have input_kept (limit : Half) (active : Bool) (v : Option Half) : Kept s (handleInput n limit active v s) :=
    (transition_kept n active v _).after (view_modEntry rfl)
  cases input with
  | good v => exact input_kept _ _ _
  | fault =>
    rw [handleEntry]
    by_cases hheld : s.entries[n].state = .inhibited ∨ s.entries[n].cfg.faultPolicy = .hold
    · rw [handleFault_of_held hheld]
      exact .of_view (view_modEntry rfl)
    obtain ⟨hinhibited, hhold⟩ := not_or.mp hheld
    obtain ⟨htrip, hclear⟩ := handleFault_of_policy hinhibited
    cases hp : s.entries[n].cfg.faultPolicy with
    | hold => exact absurd hp hhold
    | trip => exact htrip hp ▸ input_kept _ _ _
    | clear => exact hclear hp ▸ input_kept _ _ _

theorem serveQualification_kept (n : Fin 32) (s : State) : Kept s (serveQualification n s) := by
  have unloaded : view (modEntry n (fun e => { e with qual := .unloaded }) s) = view s := view_modEntry rfl
  unfold serveQualification
  split
  · exact .of_view (view_modEntry rfl)
  split
  · unfold qualificationExpiry
    dsimp only
    split
    · exact (moveWithEdge_kept n _ _ _).after unloaded
    · exact (moveWithEdge_kept n _ _ _).after unloaded
    all_goals exact .of_view unloaded
  · exact .refl s

theorem handleQualification_kept (n : Fin 32) (s : State) : Kept s (handleQualification n s) := by
  unfold handleQualification
  dsimp only
  split
  · exact (serveQualification_kept n s).withEngine
  · exact (serveQualification_kept n s).trans (comeFree_kept _)

theorem serveShaping_kept (n : Fin 32) (s : State) : Kept s (serveShaping n s) := by
  have withdrawn (l : Fin 16) (b : Bool) {f : Entry → Entry} {u : State} (h : (f u.entries[n]).cfg = u.entries[n].cfg) :
      view (setContrib l n b (modEntry n f u)) = view u :=
    (view_setContrib l n b _).trans (view_modEntry h)
  unfold serveShaping
  split
  · exact .of_view (view_modEntry rfl)
  split
  · unfold shapingExpiry
    dsimp only
    split
    · exact (takeLineCommand_kept s).before (withdrawn _ _ rfl)
    · exact (takeLineCommand_kept s).before (withdrawn _ _ rfl)
    · exact .of_view (view_modEntry rfl)
  · exact .refl s

theorem view_withdraw (n : Fin 32) (s : State) : view (withdraw n s) = view s := by
  have cancelled : view (modEntry n (fun e => Entry.cancelShape { e with phase := false }) s) = view s :=
    view_modEntry rfl
  unfold withdraw
  dsimp only
  split
  · exact (view_setContrib _ n false _).trans cancelled
  · exact cancelled

/-! ## Work items -/

theorem evaluationStep_kept (s : State) : Kept s (evaluationStep s) := by
  unfold evaluationStep
  split
  · exact settleTaken_kept _ _ s
  · split
    · exact comeFree_kept s
    · exact (handleEntry_kept _ _ s).withEngine
  all_goals exact .refl s

theorem evaluationRest_kept (fuel : Nat) (s : State) : Kept s (evaluationRest fuel s) := by
  induction fuel generalizing s with
  | zero => exact .refl s
  | succ fuel ih =>
    unfold evaluationRest
    split
    · exact (evaluationStep_kept s).trans (ih _)
    all_goals exact .refl s

theorem evaluationFinish_kept (s : State) : Kept s (evaluationFinish s) := by
  unfold evaluationFinish
  split
  · exact (settleTaken_kept _ _ s).trans (evaluationRest_kept 33 _)
  · exact evaluationRest_kept 33 s
  all_goals exact .refl s

theorem releaseAllFrom_kept (k count : Nat) (s : State) : Kept s (releaseAllFrom k count s) := by
  unfold releaseAllFrom
  split
  · exact (moveWithEdge_kept _ _ _ s).withEngine
  · exact (endService_kept _ _).after rfl

theorem releaseAllStep_kept (s : State) : Kept s (releaseAllStep s) := by
  unfold releaseAllStep
  split
  · split
    · exact releaseAllFrom_kept 0 0 s
    · exact .refl s
  · exact releaseAllFrom_kept _ _ s
  all_goals exact .refl s

theorem releaseAllRest_kept (fuel : Nat) (s : State) : Kept s (releaseAllRest fuel s) := by
  induction fuel generalizing s with
  | zero => exact .refl s
  | succ fuel ih =>
    unfold releaseAllRest
    split
    · exact (releaseAllStep_kept s).trans (ih _)
    all_goals exact .refl s

theorem view_restartEngine (s : State) : view (restartEngine s) = view s := by
  have entry (n : Fin 32) : (restartEngine s).entries[n].cfg = s.entries[n].cfg := by
    rw [restartEngine, get_mapVec]
    unfold Entry.restarted
    split <;> rfl
  unfold restartEngine at entry ⊢
  exact view_eq rfl entry (fun _ => rfl) rfl (fun _ _ => rfl) rfl rfl

theorem view_restartOutputs (s : State) : view (restartOutputs s) = view s :=
  view_mapLines (s := { s with oe := false }) (f := Line.restarted) fun _ _ => rfl

theorem view_restartChannels (s : State) : view (restartChannels s) = view s := by
  unfold restartChannels
  exact view_eq rfl (fun _ => rfl) (fun k => by rw [get_mapVec, restarted_cfg]) rfl (fun _ _ => rfl) rfl rfl

theorem view_takeRecord (b : RecordBody) (s : State) : view (takeRecord b s) = view s := by
  obtain ⟨q, f, h⟩ := takeRecord_frame b s
  rw [h]
  rfl

theorem view_restartQueue (s : State) : view (restartQueue s) = view s := by
  have taken : view (takeWaiting s) = view s := by
    obtain ⟨q, f, h⟩ := takeWaiting_frame s
    rw [h]
    rfl
  rw [restartQueue, view_takeRecord]
  exact taken

theorem restartPart_kept (p : RestartPart) (s : State) : Kept s (restartPart p s) := by
  rcases restartPart_cases p s with h | ⟨-, -, -, h⟩ | ⟨out, ch, port, irq, rec, -, ⟨-, -, h⟩ | ⟨-, -, h⟩ | ⟨-, -, h⟩
    | ⟨-, -, -, -, -, h⟩ | ⟨-, -, -, -, -, -, h⟩ | ⟨-, -, -, -, -, -, h⟩⟩ <;> rw [h]
  · exact .refl s
  · exact .of_view (view_restartEngine s)
  · exact (Kept.of_view (view_restartOutputs s)).withEngine
  · exact (Kept.of_view (view_restartChannels s)).withEngine
  · exact Kept.withEngine (t := modPort Port.restarted s) (.of_view rfl)
  · exact Kept.withEngine (t := restartInterrupts s) (.of_view rfl)
  · exact (Kept.of_view (view_restartQueue s)).withEngine
  · exact endService_kept .ok s

theorem restartAll_kept (s : State) : Kept s (restartAll s) := by
  have fold : ∀ (ps : List RestartPart) (u : State), Kept u (ps.foldl (fun s p => restartPart p s) u) := by
    intro ps
    induction ps with
    | nil => exact .refl
    | cons p ps ih => exact fun u => (restartPart_kept p u).trans (ih _)
  exact fold _ s

/-! ## The sample port -/

theorem takePortCommand_kept (s : State) : Kept s (takePortCommand s) := by
  rcases takePortCommand_cases s with ⟨-, h⟩ | ⟨-, h⟩ <;> rw [h]
  · exact .refl s
  · exact .complete (.of_view rfl)

theorem view_requestIf (b : Bool) (f : Flag) (s : State) : view (requestIf b f s) = view s := by
  cases b <;> rfl

theorem view_endFrame (s : State) : view (endFrame s) = view s := by
  unfold endFrame
  split
  · exact view_requestIf _ _ _
  all_goals rfl

theorem view_takeOutcome (o : ArrivalOutcome) (s : State) : view (takeOutcome o s) = view s := by
  cases o <;> rfl

theorem writePortEnable_kept (b : Bool) (s : State) : Kept s (writePortEnable b s) := by
  unfold writePortEnable
  split
  · exact .refl s
  · exact (takePortCommand_kept s).before rfl

theorem writeControl_kept (v : Byte) (s : State) : Kept s (writeControl v s) :=
  (writeOe_kept _ s).trans (writePortEnable_kept _ _)

theorem writeInjTag_kept (v : Byte) (s : State) : Kept s (writeInjTag v s) := by
  have harrival := takeArrival_kept false (tagChannel v) s.inj.value (tagStatus v) s
  unfold writeInjTag
  generalize takeArrival false (tagChannel v) s.inj.value (tagStatus v) s = r at harrival
  refine Kept.trans ?_ (chooseWork_kept _)
  exact harrival.before rfl

/-! ## The bounds of a command -/

/-- R109, R1, R118, R82: what command `c` can change of the stored values. -/
structure StoredBy (c : Instr) (s t : State) : Prop where
  accs : t.accs = s.accs ∨ c = .captureStep ∨ c = .writeAcc ∨ c = .powerOnReset
  entries : (view t).entries = (view s).entries ∨ c = .writeEntry ∨ c = .powerOnReset
  channels : (view t).channels = (view s).channels ∨ c = .powerOnReset ∨ Completes .writeChannel s t
  lines : (view t).lines = (view s).lines ∨ c = .powerOnReset ∨ Completes .writeLine s t

section
variable {c : Instr} {s t : State}

theorem Kept.storedBy (h : Kept s t) : StoredBy c s t :=
  ⟨.inl h.accs, .inl h.entries, h.channels.imp_right .inr, h.lines.imp_right .inr⟩

/-- A CMD_OP write changes nothing that is stored: the command it hands over is a table command where the engine then
chooses, so no WRITE_CHANNEL is taken with it (R34, R167). -/
theorem writeCmdOp_storedBy (op : Byte) (s : State) : StoredBy c s (writeCmdOp op s) := by
  unfold writeCmdOp
  split
  · exact Kept.storedBy (.of_view rfl)
  split
  · next d hd =>
    unfold handToOwner
    split
    · next htable =>
      have hchoice := chooseWork_kept (takeCommand op s)
      have other {e : Command} (he : e.isTable = false) :
          ¬ Completes e (takeCommand op s) (chooseWork (takeCommand op s)) := by
        rintro ⟨⟨-, hop⟩, -⟩
        rw [show op = encodeOpcode e from hop, decodeOpcode_encodeOpcode] at hd
        cases hd
        rw [he] at htable
        cases htable
      exact ⟨.inl hchoice.accs, .inl hchoice.entries, .inl (hchoice.channels.resolve_right (other rfl)),
        .inl (hchoice.lines.resolve_right (other rfl))⟩
    · split <;> exact ⟨.inl rfl, .inl rfl, .inl rfl, .inl rfl⟩
  · exact ⟨.inl rfl, .inl rfl, .inl rfl, .inl rfl⟩

theorem writeWindow_storedBy (a : Address) (v : Byte) (s : State) : StoredBy c s (writeWindow a v s) := by
  unfold writeWindow
  split
  · unfold writeStaging
    dsimp only
    split <;> exact Kept.storedBy (.of_view rfl)
  split
  case h_1 => exact (writeControl_kept v s).storedBy
  case h_4 => exact writeCmdOp_storedBy v s
  case h_7 => exact Kept.storedBy (.of_view (view_requestIf _ _ _))
  case h_10 => exact (writeInjTag_kept v s).storedBy
  all_goals exact Kept.storedBy (.of_view rfl)

/-- An outcome that, where it is a next state, keeps what an event keeps. -/
def Keeps (s : State) (o : Host.Outcome State Fault Refusal) : Prop :=
  ∀ t : State, o = .next t → Kept s t

/-- An outcome that, where it is a next state, is within the bounds of command `c`. -/
def Stores (c : Instr) (s : State) (o : Host.Outcome State Fault Refusal) : Prop :=
  ∀ t : State, o = .next t → StoredBy c s t

theorem keeps_next (h : Kept s t) : Keeps s (.next t) := by
  rintro u ⟨⟩
  exact h

theorem stores_next (h : StoredBy c s t) : Stores c s (.next t) := by
  rintro u ⟨⟩
  exact h

theorem Keeps.stores {o : Host.Outcome State Fault Refusal} (h : Keeps s o) : Stores c s o :=
  fun t ht => (h t ht).storedBy

theorem keeps_nothing (s : State) : Keeps s (.next s) := keeps_next (.refl s)

theorem keeps_endService (r : Result) (s : State) : Keeps s (.next (endService r s)) := keeps_next (endService_kept r s)

/-- A command that is served where it waits, and does nothing where it does not. -/
theorem keeps_ite {b : Bool} (h : b = true → Kept s t) : Keeps s (.next (if b then t else s)) := by
  cases b
  · exact keeps_nothing s
  · exact keeps_next (h rfl)

/-- A write cycle within the bounds of its command. -/
theorem stores_hostWrite {f : State → State} (hf : ∀ u : State, StoredBy c u (f u)) :
    Stores c s (.next (hostWrite f s)) := by
  refine stores_next ?_
  rw [hostWrite_eq]
  split
  · exact (Kept.refl s).storedBy
  · obtain ⟨haccs, hentries, hchannels, hlines⟩ := hf { s with dataOut := none }
    exact ⟨haccs, hentries, hchannels, hlines⟩

theorem keeps_hostRead {f : State → State} {b : Byte} (hf : ∀ u : State, view (f u) = view u) :
    Keeps s (.next (hostRead b f s)) := by
  refine keeps_next (.of_view ?_)
  rw [hostRead_eq]
  split
  · rfl
  · exact hf s

end

/-! ## The table commands -/

section
variable (s : State)

theorem execReadEntry_keeps : Keeps s (execReadEntry s) := by
  unfold execReadEntry
  split
  · split
    · exact keeps_endService _ s
    · exact keeps_next (.after (endService_kept _ _) rfl)
  · exact keeps_nothing s

/-- WRITE_ENTRY stores a configuration of its entry, and nothing else (R6, R12). -/
theorem execWriteEntry_stores : Stores .writeEntry s (execWriteEntry s) := by
  unfold execWriteEntry
  split
  · split
    · exact (keeps_endService _ s).stores
    split
    · exact (keeps_endService _ s).stores
    split
    · exact (keeps_endService _ s).stores
    next n _ _ cfg _ _ _ =>
    have hend := endService_kept .ok (modEntry n (fun e => { e with cfg := cfg }) s)
    exact stores_next ⟨.inl hend.accs, .inr (.inl rfl), hend.channels.imp_right .inr, hend.lines.imp_right .inr⟩
  · exact (keeps_nothing s).stores

theorem execArm_keeps : Keeps s (execArm s) := by
  unfold execArm
  split
  · split
    · exact keeps_endService _ s
    dsimp only
    split
    · exact keeps_endService _ s
    split
    · exact keeps_endService _ s
    · exact keeps_next (.after (endService_kept _ _) (view_modEntry rfl))
  · exact keeps_nothing s

theorem execDisarm_keeps : Keeps s (execDisarm s) := by
  unfold execDisarm
  split
  · split
    · exact keeps_endService _ s
    split
    · exact keeps_endService _ s
    · exact keeps_next (.after (endService_kept _ _) ((view_withdraw _ _).trans (view_modEntry rfl)))
  · exact keeps_nothing s

theorem execRelease_keeps : Keeps s (execRelease s) := by
  unfold execRelease
  split
  · split
    · exact keeps_endService _ s
    split
    · exact keeps_endService _ s
    · exact keeps_next ((moveWithEdge_kept _ _ _ s).trans (endService_kept _ _))
    all_goals exact keeps_endService _ s
  · exact keeps_nothing s

theorem execReleaseAll_keeps (x : Extent) : Keeps s (execReleaseAll x s) := by
  cases x with
  | advance => exact keeps_next (releaseAllStep_kept s)
  | finish => exact keeps_next ((releaseAllStep_kept s).trans (releaseAllRest_kept 32 _))

theorem execEnable_keeps : Keeps s (execEnable s) := by
  unfold execEnable
  split
  · split
    · exact keeps_endService _ s
    split
    · exact keeps_endService _ s
    · exact keeps_next (.after (endService_kept _ _) (view_modChannel rfl))
  · exact keeps_nothing s

theorem execDisable_keeps : Keeps s (execDisable s) := by
  unfold execDisable
  split
  · split
    · exact keeps_endService _ s
    split
    · exact keeps_endService _ s
    split
    · exact keeps_endService _ s
    · exact keeps_next (.after (endService_kept _ _) (view_modChannel rfl))
  · exact keeps_nothing s

theorem execRestart_keeps (x : RestartExtent) : Keeps s (execRestart x s) := by
  cases x with
  | finish => exact keeps_next (restartAll_kept s)
  | part p => exact keeps_next (restartPart_kept p s)

/-! ## The engine's other rows, and the ticks -/

theorem execEvaluation_keeps (x : Extent) : Keeps s (execEvaluation x s) := by
  cases x with
  | advance => exact keeps_next (evaluationStep_kept s)
  | finish => exact keeps_next (evaluationFinish_kept s)

theorem execQualificationExpiryTaken_keeps : Keeps s (execQualificationExpiryTaken s) := by
  unfold execQualificationExpiryTaken
  split
  · exact keeps_next (handleQualification_kept _ s)
  · exact keeps_next (comeFree_kept s)
  all_goals exact keeps_nothing s

theorem execShapingExpiryTaken_keeps : Keeps s (execShapingExpiryTaken s) := by
  unfold execShapingExpiryTaken
  split
  · exact keeps_next ((serveShaping_kept _ s).trans (comeFree_kept _))
  all_goals exact keeps_nothing s

theorem execTickBy_keeps (x : TickExtent) : Keeps s (execTickBy x s) := by
  cases x with
  | whole => exact keeps_next (tick_kept s)
  | interval => exact keeps_next (.of_view (view_endInterval s))
  | timestamp => exact keeps_next (.of_view (view_stampTick s))
  | timerBank => exact keeps_next (bankTick_kept s)
  | channelUnit => exact keeps_next (channelTicks_kept s)

/-! ## The capture unit -/

/-- A capture step changes its accumulator, and no configuration (R109, R111). -/
theorem execCaptureStep_stores : Stores .captureStep s (execCaptureStep s) := by
  unfold execCaptureStep
  split
  · exact stores_next ⟨.inr (.inl rfl), .inl rfl, .inl rfl, .inl rfl⟩
  all_goals exact (keeps_nothing s).stores

theorem execReadAcc_keeps : Keeps s (execReadAcc s) := by
  unfold execReadAcc
  split
  · exact keeps_nothing s
  · next h =>
    obtain ⟨-, rest, -, rfl⟩ := takeAccCommand_eq_some.mp h
    split
    · exact keeps_next (.complete (.of_view rfl))
    · exact keeps_next (.complete (.of_view rfl))

/-- WRITE_ACC changes its accumulator, and no configuration (R109, R116). -/
theorem execWriteAcc_stores : Stores .writeAcc s (execWriteAcc s) := by
  unfold execWriteAcc
  split
  · exact (keeps_nothing s).stores
  · next h =>
    obtain ⟨-, rest, -, rfl⟩ := takeAccCommand_eq_some.mp h
    split
    · exact Keeps.stores (keeps_next (.complete (.of_view rfl)))
    · exact stores_next ⟨.inr (.inr (.inl rfl)), .inl rfl, .inl rfl, .inl rfl⟩

/-! ## The queue, the port and SHUTOFF# -/

theorem execPop_keeps : Keeps s (execPop s) := by
  unfold execPop
  split
  · split
    · exact keeps_next (.complete (.refl s))
    · exact keeps_next (.complete (.of_view rfl))
  · exact keeps_nothing s

theorem execFlush_keeps : Keeps s (execFlush s) := by
  unfold execFlush
  split
  · exact keeps_next (.complete (.of_view rfl))
  · exact keeps_nothing s

theorem execRecordSubmission_keeps (who : Submitter) : Keeps s (execRecordSubmission who s) := by
  unfold execRecordSubmission
  split
  · refine keeps_next (.of_view ?_)
    rw [view_takeRecord]
    rfl
  · exact keeps_nothing s

theorem execArrival_keeps : Keeps s (execArrival s) := by
  unfold execArrival
  split
  · exact keeps_nothing s
  · next a rest _ =>
    have harrival := takeArrival_kept true a.channel a.raw a.status { s with port := { s.port with delivered := rest } }
    generalize takeArrival true a.channel a.raw a.status _ = r at harrival
    refine keeps_next (.trans ?_ (chooseWork_kept _))
    exact .after (harrival.before rfl) rfl

theorem execArrivalOutcome_keeps : Keeps s (execArrivalOutcome s) := by
  unfold execArrivalOutcome
  split
  · exact keeps_nothing s
  · exact keeps_next ((takePortCommand_kept s).before (view_takeOutcome _ _))

theorem execFrameStart_keeps : Keeps s (execFrameStart s) := by
  unfold execFrameStart
  split
  · exact keeps_nothing s
  split
  · exact keeps_next (.of_view rfl)
  · exact keeps_next ((takePortCommand_kept s).before rfl)

theorem execFrameEnd_keeps : Keeps s (execFrameEnd s) := by
  unfold execFrameEnd
  split
  · exact keeps_nothing s
  split
  · exact keeps_next (.of_view rfl)
  · exact keeps_next ((takePortCommand_kept s).before (view_endFrame _))

theorem execSclkRisingEdge_keeps (sdat : Bool) : Keeps s (execSclkRisingEdge sdat s) := by
  unfold execSclkRisingEdge
  split
  · exact keeps_nothing s
  · exact keeps_next ((takePortCommand_kept s).before rfl)

theorem execShutoffAssert_keeps : Keeps s (execShutoffAssert s) := by
  unfold execShutoffAssert
  split
  · exact keeps_nothing s
  split
  · exact keeps_next (.of_view rfl)
  · exact keeps_next ((takeLineCommand_kept s).before (view_assertShutoff _))

/-! ## Every command -/

/-- What every command can change of the stored values. -/
theorem exec_stores (c : Instr) : Stores c s (exec c s) := by
  have quietWrite {d : Instr} {f : State → State} (h : ∀ u : State, Kept u (f u)) :
      Stores d s (.next (hostWrite f s)) :=
    stores_hostWrite fun u => (h u).storedBy
  cases c with
  | readEntry => exact (execReadEntry_keeps s).stores
  | writeEntry => exact execWriteEntry_stores s
  | arm => exact (execArm_keeps s).stores
  | disarm => exact (execDisarm_keeps s).stores
  | release => exact (execRelease_keeps s).stores
  | releaseAll x => exact (execReleaseAll_keeps s x).stores
  | readChannel => exact Keeps.stores (keeps_ite fun _ => serveReadChannel_kept s)
  | writeChannel => exact Keeps.stores (keeps_ite serveWriteChannel_kept)
  | enable => exact (execEnable_keeps s).stores
  | disable => exact (execDisable_keeps s).stores
  | readLine => exact Keeps.stores (keeps_ite fun _ => serveReadLine_kept s)
  | writeLine => exact Keeps.stores (keeps_ite serveWriteLine_kept)
  | silence => exact Keeps.stores (keeps_ite fun _ => serveSilence_kept s)
  | override => exact Keeps.stores (keeps_ite fun _ => serveOverride_kept s)
  | resume => exact Keeps.stores (keeps_ite fun _ => serveResume_kept s)
  | pop => exact (execPop_keeps s).stores
  | flush => exact (execFlush_keeps s).stores
  | readAcc => exact (execReadAcc_keeps s).stores
  | writeAcc => exact execWriteAcc_stores s
  | clearPortCounts => exact Keeps.stores (keeps_ite fun _ => .complete (.of_view rfl))
  | restart x => exact (execRestart_keeps s x).stores
  | badOpcode op | cmdOpWriteLost op | commandTaken op => exact stores_hostWrite (writeCmdOp_storedBy op)
  | evaluation x => exact (execEvaluation_keeps s x).stores
  | captureStep => exact execCaptureStep_stores s
  | qualificationTimerExpiry n | shapingTimerExpiry n => exact Keeps.stores (keeps_ite fun _ => bankTick_kept s)
  | qualificationExpiryTaken => exact (execQualificationExpiryTaken_keeps s).stores
  | shapingExpiryTaken => exact (execShapingExpiryTaken_keeps s).stores
  | tickBy x => exact (execTickBy_keeps s x).stores
  | freshnessExpiry c => exact Keeps.stores (keeps_ite fun _ => (channelTick_kept c s).trans (chooseWork_kept _))
  | arrival => exact (execArrival_keeps s).stores
  | arrivalOutcome => exact (execArrivalOutcome_keeps s).stores
  | frameStart => exact (execFrameStart_keeps s).stores
  | frameEnd => exact (execFrameEnd_keeps s).stores
  | injTagWrite v => exact quietWrite (writeInjTag_kept v)
  | injValueLowWrite v | injValueHighWrite v | tbdivLowWrite v | tbdivHighWrite v | intFlagsClear v | intMaskWrite v =>
    exact quietWrite fun _ => .of_view rfl
  | oeChange v | portEnChange v => exact quietWrite (writeControl_kept v)
  | watermarkWrite v => exact quietWrite fun _ => .of_view (view_requestIf _ _ _)
  | headLatchLoad | timestampLatchLoad | bitmapLatchLoad b => exact Keeps.stores (keeps_hostRead fun _ => rfl)
  | registerWrite a v => exact stores_hostWrite (writeWindow_storedBy a v)
  | recordSubmission who => exact (execRecordSubmission_keeps s who).stores
  | shutoffAssert => exact (execShutoffAssert_keeps s).stores
  | shutoffRelease => exact Keeps.stores (keeps_ite fun _ => (takeLineCommand_kept s).before rfl)
  | powerOnReset => exact stores_next ⟨.inr (.inr (.inr rfl)), .inr (.inr rfl), .inr (.inl rfl), .inr (.inl rfl)⟩
  | powerOnResetEnd => exact Keeps.stores (keeps_ite fun _ => .of_view rfl)
  | sclkRisingEdge sdat => exact (execSclkRisingEdge_keeps s sdat).stores

end

/-- Every pair has a line. -/
theorem pairOf_surjective : Function.Surjective pairOf := fun p =>
  ⟨⟨2 * p.val, by omega⟩, Fin.ext (by simp [pairOf])⟩

/-- Where no line's configuration has changed, the stored fields are as they were. -/
theorem lines_eq {s t : State} (h : (view t).lines = (view s).lines) : t.exclusive = s.exclusive
    ∧ ∀ l : Fin 16, t.lines[l].polarity = s.lines[l].polarity ∧ t.lines[l].cutMember = s.lines[l].cutMember
      ∧ t.lines[l].conflictEvent = s.lines[l].conflictEvent
      ∧ t.lines[l].conflictSeverity = s.lines[l].conflictSeverity := by
  have line (l : Fin 16) := LineProposal.mk.inj (congrFun h l)
  refine ⟨table_ext fun p => ?_, fun l => ?_⟩
  · obtain ⟨l, rfl⟩ := pairOf_surjective p
    obtain ⟨-, -, -, hexclusive, -⟩ := line l
    exact hexclusive
  · obtain ⟨hpolarity, hcut, hevent, -, hseverity⟩ := line l
    exact ⟨hpolarity, hcut, hevent, hseverity⟩

/-- Settles O17: by what each command can change of the stored values (`exec_stores`). -/
theorem storedValuesChangeOnlyByTheirCommands : Obligations.StoredValuesChangeOnlyByTheirCommands := by
  intro c s t h
  have hstored := exec_stores s c t h
  refine ⟨hstored.accs.resolve_left, ?_, ?_, ?_⟩
  · rintro ⟨n, hn⟩
    exact hstored.entries.resolve_left fun e => hn (congrFun e n)
  · rintro ⟨k, hk⟩
    exact hstored.channels.resolve_left fun e => hk (congrFun e k)
  · intro hchange
    refine hstored.lines.resolve_left fun e => ?_
    obtain ⟨hexclusive, hlines⟩ := lines_eq e
    rcases hchange with hne | ⟨l, hne⟩
    · exact hne hexclusive
    · obtain ⟨hpolarity, hcut, hevent, hseverity⟩ := hlines l
      rcases hne with hne | hne | hne | hne
      · exact hne hpolarity
      · exact hne hcut
      · exact hne hevent
      · exact hne hseverity

end Sys2Proof.StoredValues
end

section
/-! PROOFS. The commands on channels, and the images that READ_CHANNEL, READ_LINE and READ_ACC write: ENABLE and DISABLE
(O28), the three reads (O31), WRITE_CHANNEL and WRITE_ACC (O32). -/

namespace Sys2Proof.ChannelCommands

open Sys2Proof.Machine Sys2Proof.Safety Sys2Proof.Claims Sys2Proof.Images Sys2Proof.TableCommands
  Sys2Proof.QueueCommands Sys2Proof.Refusals

/-- Settles O28: what ENABLE and DISABLE do where no refusal applies. -/
theorem enableStartsAndDisableStopsAChannel : Obligations.EnableStartsAndDisableStopsAChannel := by
  intro s c hc
  refine ⟨fun hs hoff => ?_, fun hs hfree hon => ?_⟩
  · rw [enable_served hs hc, if_neg (not_not.mpr hoff)]
    rfl
  · rw [disable_served hs hc, if_neg hfree, if_neg hon]
    rfl

/-! ## The channel image -/

/-- The ring is never longer than eight values (R126, Table 7-1). -/
theorem avgLen_size_le (a : AvgLen) : a.size ≤ 8 := by cases a <;> decide

/-- Byte 5 of a channel image, as a number (Table 7-5). -/
theorem channelImage_byte_5 (ch : Channel) (mark : Bool) :
    (channelImage ch mark)[5].toNat = channelStateCode ch.state + 4 * (ch.quality == .invalid).toNat
      + 8 * mark.toNat + 16 * slotCode ch.slot := by
  have hstate : channelStateCode ch.state ≤ 3 := by cases ch.state <;> decide
  have hcode : ch.state.code = channelStateCode ch.state := by cases ch.state <;> rfl
  have hslot : slotCode ch.slot ≤ 2 := by unfold slotCode; split <;> decide
  have := Bool.toNat_le (ch.quality == .invalid)
  have := Bool.toNat_le mark
  refine (BitVec.toNat_ofNat ..).trans ?_
  rw [bit_eq, bit_eq, hcode]
  omega

/-- Byte 10 of a channel image, as a number (Table 7-5). -/
theorem channelImage_byte_10 (ch : Channel) (mark : Bool) :
    (channelImage ch mark)[10].toNat = sampleStatusCode ch.lastStatus := by
  change (BitVec.ofNat 8 ch.lastStatus.code).toNat = _
  cases ch.lastStatus <;> rfl

/-- Byte 11 of a channel image, as a number (Table 7-5). -/
theorem channelImage_byte_11 {ch : Channel} (h : ch.ring.length ≤ ch.cfg.avgLen.size) (mark : Bool) :
    (channelImage ch mark)[11].toNat = ch.ring.length := by
  have := avgLen_size_le ch.cfg.avgLen
  exact (BitVec.toNat_ofNat ..).trans (Nat.mod_eq_of_lt (by omega))

/-- Bytes 12 to 27 of a channel image: the ring, oldest value first, 0 beyond its count (Table 7-5). -/
theorem channelImage_ring (ch : Channel) (mark : Bool) (i : Fin 8) :
    (channelImage ch mark)[2 * i.val + 13]'(by omega) ++ (channelImage ch mark)[2 * i.val + 12]'(by omega)
      = ch.ring.getD i.val 0 := by
  fin_cases i <;> exact halfOf_bytes _

theorem freshShown_eq (f : FreshTimer) : f.remaining = freshShown f := by cases f <;> rfl

/-- READ_CHANNEL of a channel (R138). -/
theorem readChannel_taken {s : State} {c : Fin 16} (hw : Waits .readChannel s) (hc : Index c s) :
    exec .readChannel s =
      .next (completed .ok { s with staging := channelImage s.channels[c] s.queue.marks.channel[c] }) := by
  simp only [exec, execReadChannel, if_pos (ready_iff.mpr hw), serveReadChannel, channelArg_of_index hc,
    complete_eq_completed]
  rfl

/-! ## The line image -/

/-- A line image sets no bit of byte 0 above the configuration (Table 5-3). -/
theorem lineImage_byte_0_lt (ln : Line) (exclusive mark : Bool) : (lineImage ln exclusive mark)[0].toNat < 64 := by
  have := Bool.toNat_le (ln.polarity == .activeLow)
  have := Bool.toNat_le ln.cutMember
  have := Bool.toNat_le ln.conflictEvent
  have := Bool.toNat_le exclusive
  have := ln.conflictSeverity.isLt
  refine (BitVec.toNat_ofNat ..).trans_lt ?_
  simp only [bit_eq]
  omega

/-- Byte 1 of a line image, as a number (Table 5-3). -/
theorem lineImage_byte_1 (ln : Line) (exclusive mark : Bool) :
    (lineImage ln exclusive mark)[1].toNat = overrideCode ln.override := by
  change (BitVec.ofNat 8 ln.override.code).toNat = _
  cases ln.override <;> rfl

/-- The flags of byte 2 of a line image (Table 5-3). -/
theorem lineImage_flags (ln : Line) (exclusive mark : Bool) :
    (lineImage ln exclusive mark)[2].getLsbD 0 = ln.demand ∧ (lineImage ln exclusive mark)[2].getLsbD 1 = ln.silenced
      ∧ (lineImage ln exclusive mark)[2].getLsbD 2 = ln.want ∧ (lineImage ln exclusive mark)[2].getLsbD 3 = ln.hold
      ∧ (lineImage ln exclusive mark)[2].getLsbD 4 = ln.blocked ∧ (lineImage ln exclusive mark)[2].getLsbD 5 = ln.cut
      ∧ (lineImage ln exclusive mark)[2].getLsbD 6 = ln.pinActive
      ∧ (lineImage ln exclusive mark)[2].getLsbD 7 = mark := by
  have := Bool.toNat_le ln.demand
  have := Bool.toNat_le ln.silenced
  have := Bool.toNat_le ln.want
  have := Bool.toNat_le ln.hold
  have := Bool.toNat_le ln.blocked
  have := Bool.toNat_le ln.cut
  have := Bool.toNat_le ln.pinActive
  have := Bool.toNat_le mark
  have h2 : (lineImage ln exclusive mark)[2].toNat = ln.demand.toNat + 2 * ln.silenced.toNat + 4 * ln.want.toNat
      + 8 * ln.hold.toNat + 16 * ln.blocked.toNat + 32 * ln.cut.toNat + 64 * ln.pinActive.toNat
      + 128 * mark.toNat := by
    refine (BitVec.toNat_ofNat ..).trans ?_
    simp only [bit_eq]
    omega
  and_intros <;> exact getLsbD_eq_of_toNat (by omega)

/-- Byte 3 of a line image, as a number: how many entries contribute (Table 5-3). -/
theorem lineImage_byte_3 (ln : Line) (exclusive mark : Bool) :
    (lineImage ln exclusive mark)[3].toNat = (List.finRange 32).countP (fun n => ln.contrib[n]) := by
  have hle : (List.finRange 32).countP (fun n => ln.contrib[n]) ≤ 32 :=
    List.countP_le_length.trans_eq List.length_finRange
  exact (BitVec.toNat_ofNat ..).trans (Nat.mod_eq_of_lt (hle.trans_lt (by decide)))

/-- A bit of a byte of a field is a bit of the field (Table 0-2). -/
theorem byteOf_getLsbD {w : Nat} (x : BitVec w) (k : Nat) {i : Nat} (hi : i < 8) :
    (byteOf x k).getLsbD i = x.getLsbD (8 * k + i) := by
  simp [byteOf, hi]

/-- Bytes 4 to 7 of a line image: the contribution set, entry by entry (Table 5-3). -/
theorem lineImage_contrib (ln : Line) (exclusive mark : Bool) (n : Fin 32) :
    ((lineImage ln exclusive mark)[n.val / 8 + 4]'(by omega)).getLsbD (n.val % 8) = ln.contrib[n] := by
  have hbyte (k : Nat) (hk : k < 4) : (lineImage ln exclusive mark)[k + 4] =
      byteOf (packBits 32 fun n => ln.contrib[n]) k := by
    interval_cases k <;> rfl
  rw [hbyte (n.val / 8) (by omega), byteOf_getLsbD _ _ (Nat.mod_lt _ (by decide)), Nat.div_add_mod]
  exact packBits_bit 32 (fun n => ln.contrib[n]) n

/-- Bytes 8 to 31 of a line image read 0 (Table 5-3). -/
theorem lineImage_rest (ln : Line) (exclusive mark : Bool) {i : Fin 32} (hi : 8 ≤ i.val) :
    (lineImage ln exclusive mark)[i] = 0 := by
  obtain ⟨i, hlt⟩ := i
  change 8 ≤ i at hi
  interval_cases i <;> rfl

/-- READ_LINE of a line (R104). -/
theorem readLine_taken {s : State} {l : Fin 16} (hw : Waits .readLine s) (hl : Index l s) :
    exec .readLine s = .next (completed .ok { s with
      staging := lineImage s.lines[l] s.exclusive[pairOf l] s.queue.marks.line[l] }) := by
  simp only [exec, execReadLine, if_pos (ready_iff.mpr hw), serveReadLine, lineArg_of_index hl, complete_eq_completed]
  rfl

/-! ## The accumulator image -/

/-- The image of an accumulator is its four bytes, and the rest of the staging area stays (Table 6-2). -/
theorem withAccImage_bytes (x : Word) (b : Vector Byte 32) :
    (withAccImage x b)[3] ++ (withAccImage x b)[2] ++ (withAccImage x b)[1] ++ (withAccImage x b)[0] = x
      ∧ ∀ i : Fin 32, 4 ≤ i.val → (withAccImage x b)[i] = b[i] := by
  refine ⟨?_, fun i hi => ?_⟩
  · simp only [withAccImage, Vector.getElem_set, reduceIte, Nat.reduceEqDiff]
    exact wordOf_bytes x
  · have h0 : 0 ≠ i.val := by omega
    have h1 : 1 ≠ i.val := by omega
    have h2 : 2 ≠ i.val := by omega
    have h3 : 3 ≠ i.val := by omega
    simp only [withAccImage, Fin.getElem_fin, Vector.getElem_set, h0, h1, h2, h3, if_false]

section
variable {s : State} {a : Fin 8} {rest : List CaptureEvent}

/-- READ_ACC of an accumulator, when its turn has come (R110, R115). -/
theorem readAcc_taken (hw : Waits .readAcc s) (hcap : s.captures = .command :: rest) (ha : Index a s) :
    exec .readAcc s = .next (completed .ok { s with
      staging := withAccImage s.accs[a] s.staging, captures := rest }) := by
  have harg : indexOf 8 s.cmd.captured0 = some a := indexOf_eq_some.mpr ha
  simp only [exec, execReadAcc, takeAccCommand_eq_some.mpr ⟨ready_iff.mpr hw, rest, hcap, rfl⟩, harg,
    complete_eq_completed]

/-- WRITE_ACC of an accumulator, when its turn has come (R110, R116). -/
theorem writeAcc_taken (hw : Waits .writeAcc s) (hcap : s.captures = .command :: rest) (ha : Index a s) :
    exec .writeAcc s = .next (completed .ok { s with
      captures := rest
      accs := s.accs.set a (wordOf s.cmd.seen[0] s.cmd.seen[1] s.cmd.seen[2] s.cmd.seen[3]) }) := by
  have harg : indexOf 8 s.cmd.captured0 = some a := indexOf_eq_some.mpr ha
  simp only [exec, execWriteAcc, takeAccCommand_eq_some.mpr ⟨ready_iff.mpr hw, rest, hcap, rfl⟩, harg,
    complete_eq_completed]

end

/-- Settles O31: the image each of the three reads writes, byte by byte. -/
theorem readCommandsWriteTheirImages : Obligations.ReadCommandsWriteTheirImages := by
  refine ⟨fun s c hlaw hw hc => ?_, fun s l hw hl => ?_, fun s a rest hw hcap ha => ?_⟩
  · obtain ⟨hring, -⟩ := hlaw
    refine ⟨_, readChannel_taken hw hc, channelBytes_channelImage _ _, ?_, halfOf_bytes _, halfOf_bytes _,
      channelImage_byte_10 _ _, channelImage_byte_11 hring _, channelImage_ring _ _,
      (halfOf_bytes _).trans (freshShown_eq _), rfl, rfl⟩
    rw [channelImage_byte_5]
    rfl
  · obtain ⟨hdemand, hsilenced, hwant, hhold, hblocked, hcut, hpin, hmark⟩ :=
      lineImage_flags s.lines[l] s.exclusive[pairOf l] s.queue.marks.line[l]
    exact ⟨_, readLine_taken hw hl, lineByte_lineImage _ _ _, lineImage_byte_0_lt _ _ _, lineImage_byte_1 _ _ _,
      hdemand, hsilenced, hwant, hhold, hblocked, hcut, hpin, hmark, lineImage_byte_3 _ _ _, lineImage_contrib _ _ _,
      fun _ => lineImage_rest _ _ _⟩
  · exact ⟨_, readAcc_taken hw hcap ha, withAccImage_bytes _ _⟩

/-! ## WRITE_CHANNEL -/

theorem avgLenCode_injective : Function.Injective avgLenCode :=
  Function.LeftInverse.injective (g := AvgLen.ofCode) fun a => by cases a <;> rfl

/-- WRITE_CHANNEL with a proposal that passes its checks (R139, R140). -/
theorem writeChannel_stores {s : State} {c : Fin 16} {cfg : ChannelConfig} (hw : Waits .writeChannel s)
    (hc : Index c s) (hb : ChannelBytes s.cmd.seen cfg)
    (havg : cfg.avgLen = s.channels[c].cfg.avgLen ∨ s.channels[c].state = .off) :
    exec .writeChannel s = .next (completed .ok (modChannel c (fun ch => { ch with cfg := cfg }) s)) := by
  have hpass : ¬ (cfg.avgLen != s.channels[c].cfg.avgLen && s.channels[c].state != .off) = true := by
    rw [Bool.and_eq_true, bne_iff_ne, bne_iff_ne]
    exact fun h => havg.elim h.1 h.2
  simp only [exec, execWriteChannel, if_pos (ready_iff.mpr hw), serveWriteChannel, channelArg_of_index hc,
    parseChannel_eq_some.mpr hb, if_neg hpass, complete_eq_completed]

/-- Settles O32: a source code below 3 proposes a configuration, which is stored; WRITE_ACC stores what it sees. -/
theorem writeChannelAndWriteAccStore : Obligations.WriteChannelAndWriteAccStore := by
  refine ⟨fun s c hw hc hsource havg => ?_, fun s a rest hw hcap ha => writeAcc_taken hw hcap ha⟩
  obtain ⟨cfg, hparse⟩ := Option.ne_none_iff_exists'.mp (mt parseChannel_eq_none.mp hsource)
  have hb : ChannelBytes s.cmd.seen cfg := parseChannel_eq_some.mp hparse
  obtain ⟨-, hbyte, -⟩ := parseChannel_eq_some.mp hparse
  exact ⟨cfg, writeChannel_stores hw hc hb (havg.imp_left fun h => avgLenCode_injective (hbyte.symm.trans h)), hb⟩

end Sys2Proof.ChannelCommands
end

section
/-! PROOFS. What reaches a channel: arrivals from the port and the host (O41), the freshness expiry (O42), and the settling
of a taken item, good (O44) or not (O45). Each comes behind the command that waits for the channel. -/

namespace Sys2Proof.SampleIntake

open Sys2Proof.Machine Sys2Proof.Safety Sys2Proof.Claims Sys2Proof.Choosing Sys2Proof.Ticks

/-! ## The command that waits for the channel -/

/-- A channel command goes by nothing of the port, of the ticks on their way and of D7 to D0, and leaves them. -/
theorem takeChannelCommand_beside (c : Fin 16) (p : Port) (d : DueTicks) (b : Option Byte) (s : State) :
    takeChannelCommand c { s with port := p, due := d, dataOut := b } =
      { takeChannelCommand c s with port := p, due := d, dataOut := b } := by
  have hs : takeChannelCommand c s = graft c (takeChannelCommand c s) s := takeChannelCommand_agree rfl rfl rfl rfl rfl
  rw [takeChannelCommand_agree (s := s) (x := { s with port := p, due := d, dataOut := b }) rfl rfl rfl rfl rfl]
  conv_rhs => rw [hs]
  rfl

theorem takeChannelCommand_inj (c : Fin 16) (s : State) : (takeChannelCommand c s).inj = s.inj := by
  rw [takeChannelCommand_frame]

/-- What an event that reaches the channel goes by, and the command that was taken before has left as it was. -/
theorem takeChannelCommand_keeps {c : Fin 16} {s u : State} (hu : u = takeChannelCommand c s) :
    u.channels[c].state = s.channels[c].state ∧ u.channels[c].quality = s.channels[c].quality
      ∧ u.waiting = s.waiting ∧ u.workItem = s.workItem := by
  obtain ⟨cfg, e, -⟩ := takeChannelCommand_channels c c s
  rw [hu, e, takeChannelCommand_frame]
  exact ⟨rfl, rfl, rfl, rfl⟩

/-! ## Arrivals -/

/-- R121: the outcome by state and source. -/
theorem decide_eq_outcomeOf (fromPort : Bool) (ch : Channel) : ch.decide fromPort = outcomeOf fromPort ch := by
  unfold Channel.decide outcomeOf
  cases ch.state with
  | off => rfl
  | waiting | live | stale => cases ch.cfg.source <;> cases fromPort <;> rfl

/-- The saturated count of overruns (R122). -/
theorem satInc_eq_min (x : Byte) : satInc x = BitVec.ofNat 8 (min 255 (x.toNat + 1)) := by
  apply BitVec.eq_of_toNat_eq
  rw [satInc_toNat (by decide), BitVec.toNat_ofNat, Nat.mod_eq_of_lt (by omega)]
  rfl

/-- R122: what an accepted arrival writes. -/
theorem accept_eq_arrived {fromPort : Bool} {ch : Channel} (h : outcomeOf fromPort ch = .accepted) (raw : Half)
    (status : SampleStatus) : ch.accept raw status = arrived fromPort raw status ch := by
  rw [arrived, if_pos h, Channel.accept]
  congr 1
  cases ch.slot with
  | none => rfl
  | some item =>
    cases item with
    | sample _ _ => exact satInc_eq_min _
    | fault => rfl

/-- An arrival as the rules have it (R121, R122): its outcome, and the channel behind the command that waited for it. -/
theorem takeArrival_eq (fromPort : Bool) (c : Fin 16) (raw : Half) (status : SampleStatus) (s : State) :
    takeArrival fromPort c raw status s =
      (outcomeOf fromPort (takeChannelCommand c s).channels[c],
        { takeChannelCommand c s with
          channels := (takeChannelCommand c s).channels.set c
            (arrived fromPort raw status (takeChannelCommand c s).channels[c]) }) := by
  unfold takeArrival
  dsimp only
  rw [decide_eq_outcomeOf]
  generalize takeChannelCommand c s = u
  congr 1
  by_cases h : outcomeOf fromPort u.channels[c] = .accepted
  · rw [if_pos (beq_iff_eq.mpr h), ← accept_eq_arrived h]
    rfl
  · rw [if_neg (mt beq_iff_eq.mp h), arrived, if_neg h, set_of_same rfl]

/-- A sample status is named by its code (R119). -/
theorem ofCode_sampleStatusCode (status : SampleStatus) : SampleStatus.ofCode (sampleStatusCode status) = status := by
  cases status <;> rfl

/-- Settles O41: an arrival taken behind the waiting command, and where its outcome goes. -/
theorem arrivalsAreAcceptedOrRefused : Obligations.ArrivalsAreAcceptedOrRefused := by
  refine ⟨fun s u a rest hdelivered hu => ?_, fun s u v c status hreset hc hstatus hu => ?_⟩
  · have hport : takeChannelCommand a.channel { s with port := { s.port with delivered := rest } } =
        { u with port := { s.port with delivered := rest } } := by
      rw [hu, channelTaken_eq, takeChannelCommand_beside a.channel _ s.due s.dataOut s, takeChannelCommand_frame]
    simp only [exec, execArrival, hdelivered, takeArrival_eq, hport]
  · have htag : tagChannel v = c := Fin.ext hc.symm
    have hnamed : tagStatus v = status := by rw [tagStatus, ← hstatus, ofCode_sampleStatusCode]
    have hfloat : takeChannelCommand c (floatData s) = { u with dataOut := none } := by
      rw [hu, channelTaken_eq, floatData, takeChannelCommand_beside c s.port s.due _ s, takeChannelCommand_frame]
    have hinj : u.inj = s.inj := by rw [hu, channelTaken_eq, takeChannelCommand_inj]
    simp only [exec, execInjTagWrite, hostWrite, hreset, writeInjTag, htag, hnamed, takeArrival_eq, hfloat, hinj]
    rfl

/-! ## The freshness expiry -/

/-- A freshness expiry, written out (R132 to R134). -/
theorem freshnessExpiry_eq (c : Fin 16) (s : State) : freshnessExpiry c s = { s with
    channels := s.channels.set c s.channels[c].expired
    waiting := s.waiting ++ channelRecordIf
      (s.channels[c].cfg.faultEvents && (s.channels[c].state == .waiting || s.channels[c].state == .live)) s.workItem
      (.stale c) s.channels[c].cfg.faultSeverity none 0 } := by
  rw [freshnessExpiry_frame, freshnessExpiry_waiting]

/-- The tick that brings the freshness timer of a channel to zero (R131, R120). -/
theorem exec_freshnessExpiry {s u : State} {c : Fin 16} {k : Nat} (hdue : s.due.channels[c] = k + 1)
    (hfresh : s.channels[c].fresh = .running 1) (hu : u = takeChannelCommand c s) :
    exec (.freshnessExpiry c) s = .next (chooseWork { u with
      channels := u.channels.set c u.channels[c].expired
      due := { s.due with channels := s.due.channels.set c k }
      waiting := s.waiting ++ channelRecordIf
        (u.channels[c].cfg.faultEvents && (s.channels[c].state == .waiting || s.channels[c].state == .live)) s.workItem
        (.stale c) u.channels[c].cfg.faultSeverity none 0 }) := by
  have hexpiring : s.channels[c].fresh.expiring = true := by rw [hfresh]; rfl
  have htick : channelTick c s = freshnessExpiry c (takeChannelCommand c { s with
      due := { s.due with channels := s.due.channels.set c k } }) := by
    rcases channelTick_cases c s with ⟨h0, -⟩ | ⟨-, -, h⟩ | ⟨-, hx, -⟩
    · exact absurd (hdue.symm.trans h0) (Nat.succ_ne_zero k)
    · rw [h, hdue, Nat.add_sub_cancel]
    · exact absurd (hexpiring.symm.trans hx) nofun
  obtain ⟨hstate, -, hwaiting, hitem⟩ := takeChannelCommand_keeps hu
  have hbeside := takeChannelCommand_beside c s.port { s.due with channels := s.due.channels.set c k } s.dataOut s
  rw [exec, execFreshnessExpiry, if_pos hexpiring, htick, hbeside, freshnessExpiry_eq, ← hu]
  dsimp only
  rw [hstate, hwaiting, hitem, hu, takeChannelCommand_frame]

/-- Settles O42: what the expiry makes of an active channel and of a STALE one. -/
theorem freshnessExpiryMakesTheChannelStale : Obligations.FreshnessExpiryMakesTheChannelStale := by
  intro s u c k hdue hfresh hu
  rw [channelTaken_eq] at hu
  obtain ⟨hstate, -, hwaiting, -⟩ := takeChannelCommand_keeps hu
  rw [exec_freshnessExpiry hdue hfresh hu]
  refine ⟨fun hactive => ?_, fun hstale => ?_⟩
  · have hrecord : (s.channels[c].state == .waiting || s.channels[c].state == .live) = true := by
      rw [Bool.or_eq_true, beq_iff_eq, beq_iff_eq]
      exact hactive
    rw [expired_of_active (hstate ▸ hactive), hrecord, Bool.and_true]
  · have hnone : (s.channels[c].state == .waiting || s.channels[c].state == .live) = false := by rw [hstale]; rfl
    rw [expired_of_stale (hstate.trans hstale), hnone, Bool.and_false, channelRecordIf, if_neg Bool.false_ne_true,
      List.append_nil, ← hwaiting]

/-! ## The average -/

/-- A quotient truncated toward zero stays between two bounds about zero. -/
theorem tdiv_mem_of_mul_mem {a lo hi : Int} {n : Nat} (hn : 0 < n) (hlo : lo ≤ 0) (hhi : 0 ≤ hi) (hloa : lo * n ≤ a)
    (hahi : a ≤ hi * n) : lo ≤ a.tdiv n ∧ a.tdiv n ≤ hi := by
  have hpos : (0 : Int) < n := by omega
  rcases Int.le_total 0 a with ha | ha
  · have hle : a / n ≤ hi := Int.ediv_le_of_le_mul hpos hahi
    have hge : 0 ≤ a / n := Int.ediv_nonneg ha hpos.le
    rw [Int.tdiv_eq_ediv_of_nonneg ha]
    omega
  · have hle : -a / n ≤ -lo := Int.ediv_le_of_le_mul hpos (by rw [Int.neg_mul]; omega)
    have hge : 0 ≤ -a / n := Int.ediv_nonneg (by omega) hpos.le
    rw [← Int.neg_neg a, Int.neg_tdiv, Int.tdiv_eq_ediv_of_nonneg (by omega)]
    omega

/-- The sum of 16-bit values is bounded by their number. -/
theorem sum_toInt_mem (ring : List Half) :
    -32768 * (ring.length : Int) ≤ (ring.map BitVec.toInt).sum
      ∧ (ring.map BitVec.toInt).sum ≤ 32767 * (ring.length : Int) := by
  induction ring with
  | nil => exact ⟨le_rfl, le_rfl⟩
  | cons x xs ih =>
    have hlo : -32768 ≤ x.toInt := BitVec.le_toInt x
    have hhi : x.toInt < 32768 := BitVec.toInt_lt
    rw [List.map_cons, List.sum_cons, List.length_cons]
    omega

/-- R126: the average of a ring that holds a value, truncated toward zero, is a 16-bit value. -/
theorem average_toInt {ring : List Half} (h : ring ≠ []) :
    (average ring).toInt = Int.tdiv (ring.map BitVec.toInt).sum ring.length := by
  obtain ⟨hlo, hhi⟩ := sum_toInt_mem ring
  obtain ⟨hge, hle⟩ := tdiv_mem_of_mul_mem (List.length_pos_iff.mpr h) (by decide) (by decide) hlo hhi
  rw [average, BitVec.toInt_ofInt]
  exact Int.bmod_eq_of_le (by omega) (by omega)

/-- R126: a value enters at the newest end, and of a full ring the oldest drops out. -/
theorem ringWith_eq {size : Nat} {ring : List Half} (h : ring.length ≤ size) (hsize : 0 < size) (x : Half) :
    ringWith size ring x = (if ring.length = size then ring.tail else ring) ++ [x] := by
  unfold ringWith
  split
  · next e =>
    rw [e, Nat.add_sub_cancel_left, List.drop_append_of_le_length (by omega), List.drop_one]
  · next hlt => rw [Nat.sub_eq_zero_of_le (by omega), List.drop_zero]

theorem avgLen_size_pos (a : AvgLen) : 0 < a.size := by cases a <;> decide

/-! ## Settling -/

/-- R125: the corrected value. -/
theorem corrected_eq {cfg : ChannelConfig} {raw x : Half} (h : CorrectedValue cfg raw x) : corrected cfg raw = x :=
  BitVec.eq_of_toInt_eq ((sat16_toInt _).trans h.symm)

/-- R125: what enters the ring. -/
theorem entering_of_enters {cfg : ChannelConfig} {raw x : Half} {status : SampleStatus} (h : Enters cfg raw status x) :
    entering cfg raw status = some x := by
  cases status with
  | good => exact congrArg some (corrected_eq h)
  | overHigh =>
    obtain ⟨hlimit, hx⟩ := h
    rw [entering, if_pos hlimit]
    exact congrArg some (BitVec.eq_of_toInt_eq hx.symm)
  | overLow =>
    obtain ⟨hlimit, hx⟩ := h
    rw [entering, if_pos hlimit]
    exact congrArg some (BitVec.eq_of_toInt_eq hx.symm)
  | fault => exact h.elim

/-- R125: what does not enter it. -/
theorem entering_eq_none {cfg : ChannelConfig} {status : SampleStatus}
    (h : status = .fault ∨ status ≠ .good ∧ cfg.overrangeAsLimit = false) (raw : Half) :
    entering cfg raw status = none := by
  cases status with
  | good => exact (h.resolve_left nofun).1.elim rfl
  | overHigh | overLow =>
    have hlimit := (h.resolve_left nofun).2
    rw [entering, hlimit, if_neg Bool.false_ne_true]
  | fault => rfl

/-- R128: a sample item makes a channel that is not OFF LIVE. -/
theorem afterSample_eq_live {st : ChannelState} (h : st ≠ .off) : st.afterSample = .live := by
  cases st with
  | off => exact absurd rfl h
  | waiting | live | stale => rfl

theorem sampleStatus_code (status : SampleStatus) : status.code = sampleStatusCode status := by cases status <;> rfl

section
variable {s : State} {c : Fin 16} {raw x : Half} {status : SampleStatus}

/-- A good settling, written out (R126, R128, R129). -/
theorem settleSample_good (h : entering s.channels[c].cfg raw status = some x) :
    settleSample c raw status s =
      (.good (s.channels[c].settledGood raw status x).value, { s with
        channels := s.channels.set c (s.channels[c].settledGood raw status x)
        waiting := s.waiting ++ channelRecordIf
          (s.channels[c].cfg.faultEvents && (s.channels[c].state == .stale || s.channels[c].quality == .invalid))
          s.workItem (.fresh c) s.channels[c].cfg.faultSeverity
          (some (s.channels[c].settledGood raw status x).value) 0 }) := by
  simp only [settleSample, h, handOverIf_eq]
  rfl

/-- An invalid settling, written out (R127 to R129). -/
theorem settleSample_invalid (h : entering s.channels[c].cfg raw status = none) :
    settleSample c raw status s = (.fault, { s with
      channels := s.channels.set c (s.channels[c].settledInvalid raw status)
      waiting := s.waiting ++ channelRecordIf
        (s.channels[c].cfg.faultEvents && (s.channels[c].state == .stale || s.channels[c].quality == .good))
        s.workItem (.invalid c) s.channels[c].cfg.faultSeverity (some (corrected s.channels[c].cfg raw))
        (sampleStatusCode status) }) := by
  simp only [settleSample, h, handOverIf_eq, ← sampleStatus_code]
  rfl

/-- The settling is the first event of an evaluation (R37, R120). -/
theorem evaluation_settles {item : Item} (h : s.engine = .settling c item) :
    exec (.evaluation .advance) s = .next { (settle c item (takeChannelCommand c s)).2 with
      engine := .handling c (settle c item (takeChannelCommand c s)).1 0 } := by
  simp only [exec, execEvaluation, evaluationStep, h, settleTaken]

end

/-- Settles O44: the ring with the value that enters it, its average, and the channel that settles so. -/
theorem goodSampleSettlesIntoTheAverage : Obligations.GoodSampleSettlesIntoTheAverage := by
  intro s u c raw x status hengine hu hon hring hx
  rw [channelTaken_eq] at hu
  obtain ⟨hstate, hquality, hwaiting, hitem⟩ := takeChannelCommand_keeps hu
  have hlive : s.channels[c].state.afterSample = .live := afterSample_eq_live hon
  have hwith := ringWith_eq hring (avgLen_size_pos _) x
  refine ⟨_, average (ringWith u.channels[c].cfg.avgLen.size u.channels[c].ring x), rfl, ?_, ?_⟩
  · rw [← hwith, average_toInt (by rw [hwith]; exact List.append_ne_nil_of_right_ne_nil _ (List.cons_ne_nil _ _))]
  · rw [evaluation_settles hengine, ← hu, settle, settleSample_good (entering_of_enters hx)]
    simp only [Channel.settledGood, hstate, hlive, hquality, hwaiting, hitem, hwith]

/-- Settles O45: nothing enters the ring, and a fault item writes nothing. -/
theorem invalidSampleAndFaultItemGiveFaultInput : Obligations.InvalidSampleAndFaultItemGiveFaultInput := by
  refine ⟨fun s u c raw x status hengine hu hon hinvalid hx => ?_, fun s c hengine => ?_⟩
  · rw [channelTaken_eq] at hu
    obtain ⟨hstate, hquality, hwaiting, hitem⟩ := takeChannelCommand_keeps hu
    have hlive : s.channels[c].state.afterSample = .live := afterSample_eq_live hon
    rw [evaluation_settles hengine, ← hu, settle, settleSample_invalid (entering_eq_none hinvalid raw)]
    simp only [Channel.settledInvalid, corrected_eq hx, hstate, hlive, hquality, hwaiting, hitem]
  · rw [evaluation_settles hengine, channelTaken_eq]
    rfl

end Sys2Proof.SampleIntake
end

section
/-! PROOFS. The laws of the channels are kept by every step (O11). First what each operation of the channel unit does to
the law of one channel; then the events that reach the channels or the item the engine is settling, and the events that
reach neither (`view`); then every command. -/

namespace Sys2Proof.ChannelLaws

open Sys2Proof.Machine Sys2Proof.Safety Sys2Proof.SampleIntake

/-! ## One channel -/

theorem freshLoad_ne_zero (w : Half) : freshLoad w ≠ .running 0 := by
  unfold freshLoad
  split
  · nofun
  · next h => exact fun e => h (FreshTimer.running.inj e)

section
variable {ch : Channel} (h : ChannelLaw ch)
include h

/-- WRITE_CHANNEL changes avg_len of an OFF channel only, whose ring is empty (R139). -/
theorem withConfig_channelLaw {cfg : ChannelConfig} (havg : cfg.avgLen = ch.cfg.avgLen ∨ ch.state = .off) :
    ChannelLaw { ch with cfg := cfg } := by
  obtain ⟨hlen, hring, hoff, hcount⟩ := h
  refine ⟨?_, hring, hoff, hcount⟩
  dsimp only
  rcases havg with havg | hst
  · rwa [havg]
  · rw [hring (by rw [hst]; nofun)]
    exact Nat.zero_le _

/-- The engine empties the slot of the item it takes (R37). -/
theorem emptied_channelLaw : ChannelLaw { ch with slot := none } := by
  obtain ⟨hlen, hring, hoff, hcount⟩ := h
  exact ⟨hlen, hring, fun e => ⟨rfl, (hoff e).2⟩, hcount⟩

/-- An arrival is accepted by a channel that is not OFF, and loads its timer (R121, R122). -/
theorem arrived_channelLaw (fromPort : Bool) (raw : Half) (status : SampleStatus) :
    ChannelLaw (Claims.arrived fromPort raw status ch) := by
  by_cases hout : Claims.outcomeOf fromPort ch = .accepted
  · have hon : ch.state ≠ .off := by
      intro e
      rw [Claims.outcomeOf, if_pos e] at hout
      cases hout
    obtain ⟨hlen, hring, -, -⟩ := h
    rw [← accept_eq_arrived hout]
    exact ⟨hlen, hring, fun e => absurd e hon, freshLoad_ne_zero _⟩
  · rwa [Claims.arrived, if_neg hout]

/-- A freshness expiry empties the ring of a channel that leaves LIVE (R132, R133). -/
theorem expired_channelLaw : ChannelLaw ch.expired := by
  obtain ⟨hlen, hring, hoff, -⟩ := h
  unfold Channel.expired
  split
  · exact ⟨Nat.zero_le _, fun _ => rfl, nofun, nofun⟩
  · exact ⟨Nat.zero_le _, fun _ => rfl, nofun, nofun⟩
  · next hst => exact ⟨hlen, hring, fun e => absurd (hst.symm.trans e) nofun, nofun⟩
  · exact ⟨hlen, hring, fun e => ⟨(hoff e).1, rfl⟩, nofun⟩

/-- A tick that does not bring the timer to zero leaves a count of 1 or more (R131). -/
theorem ticked_channelLaw (hx : ch.fresh.expiring = false) : ChannelLaw { ch with fresh := ch.fresh.tick } := by
  obtain ⟨hlen, hring, hoff, hcount⟩ := h
  cases hf : ch.fresh with
  | unloaded => exact ⟨hlen, hring, fun e => ⟨(hoff e).1, rfl⟩, nofun⟩
  | running k =>
    rw [hf, FreshTimer.expiring, decide_eq_false_iff_not] at hx
    refine ⟨hlen, hring, fun e => absurd (hf.symm.trans (hoff e).2) nofun, fun e => ?_⟩
    have hk : k - 1 = 0 := FreshTimer.running.inj e
    exact hx (by bv_omega)

/-- A good settling leaves a ring of at most avg_len values, in a channel that becomes LIVE (R126, R128). -/
theorem settledGood_channelLaw (hon : ch.state ≠ .off) (raw : Half) (status : SampleStatus) (x : Half) :
    ChannelLaw (ch.settledGood raw status x) := by
  obtain ⟨hlen, -, -, hcount⟩ := h
  have hlive := afterSample_eq_live hon
  have hpos := avgLen_size_pos ch.cfg.avgLen
  refine ⟨?_, fun hne => absurd hlive hne, fun e => absurd (hlive.symm.trans e) nofun, hcount⟩
  change (ringWith ch.cfg.avgLen.size ch.ring x).length ≤ ch.cfg.avgLen.size
  rw [ringWith_eq hlen hpos, List.length_append, List.length_singleton]
  split
  · rw [List.length_tail]
    omega
  · omega

/-- An invalid settling keeps the ring (R127, R128). -/
theorem settledInvalid_channelLaw (hon : ch.state ≠ .off) (raw : Half) (status : SampleStatus) :
    ChannelLaw (ch.settledInvalid raw status) := by
  obtain ⟨hlen, -, -, hcount⟩ := h
  have hlive := afterSample_eq_live hon
  exact ⟨hlen, fun hne => absurd hlive hne, fun e => absurd (hlive.symm.trans e) nofun, hcount⟩

omit h in
/-- ENABLE and DISABLE empty ring and slot (R136, R137). -/
theorem enabled_channelLaw : ChannelLaw ch.enabled :=
  ⟨Nat.zero_le _, fun _ => rfl, nofun, freshLoad_ne_zero _⟩

omit h in
theorem disabled_channelLaw : ChannelLaw ch.disabled :=
  ⟨Nat.zero_le _, fun _ => rfl, fun _ => ⟨rfl, rfl⟩, nofun⟩

theorem restarted_channelLaw : ChannelLaw ch.restarted := by
  unfold Channel.restarted
  split
  · exact h
  all_goals exact enabled_channelLaw

end

/-! ## Events that reach neither the channels nor the item in settlement -/

/-- What the law of the channels goes by. -/
def view (s : State) : Vector Channel 16 × Engine := (s.channels, s.engine)

section
variable {s t : State}

theorem channelsLaw_of_view (h : view t = view s) (hs : ChannelsLaw s) : ChannelsLaw t := by
  have hchannels : t.channels = s.channels := congrArg Prod.fst h
  have hengine : t.engine = s.engine := congrArg Prod.snd h
  rw [ChannelsLaw, hchannels, hengine]
  exact hs

theorem view_of_outputWork (h : OutputWork s t) : view t = view s := by
  rw [h]
  rfl

theorem view_of_entryWork {n : Fin 32} (h : EntryWork n s t) : view t = view s := by
  rw [h.1]
  rfl

end

section
variable (s : State)

theorem view_complete (r : Result) : view (complete r s) = view s := rfl

theorem view_takeLineCommand : view (takeLineCommand s) = view s := view_of_outputWork (takeLineCommand_work s)

theorem view_updateWant (loose : Bool) (l : Fin 16) : view (updateWant loose l s) = view s := by
  rw [updateWant_frame]
  rfl

theorem view_refreshPins : view (refreshPins s) = view s := by
  rw [view, refreshPins_channels, refreshPins_engine]
  rfl

theorem view_assertShutoff : view (assertShutoff s) = view s := by
  rw [PinControl.assertShutoff_frame]
  rfl

theorem view_serveReadLine : view (serveReadLine s) = view s := by
  unfold serveReadLine
  split <;> rfl

theorem view_serveWriteLine : view (serveWriteLine s) = view s := by
  unfold serveWriteLine
  dsimp only
  split
  · rfl
  split
  · rfl
  · rw [OutputLaws.storeLine_frame]
    rfl

theorem view_serveSilence : view (serveSilence s) = view s := by
  unfold serveSilence
  split
  · rfl
  split
  · rfl
  · exact view_updateWant _ _ _

theorem view_serveOverride : view (serveOverride s) = view s := by
  unfold serveOverride
  split
  · rfl
  split
  · rfl
  · exact view_updateWant _ _ _

theorem view_serveResume : view (serveResume s) = view s := by
  unfold serveResume
  split
  · rfl
  · rw [view_complete, view_refreshPins, view, view]

theorem view_writeOe (b : Bool) : view (writeOe b s) = view s := by
  unfold writeOe
  split
  · rfl
  · exact (view_refreshPins _).trans (view_takeLineCommand s)

theorem view_takePortCommand : view (takePortCommand s) = view s := by
  rcases takePortCommand_cases s with ⟨-, h⟩ | ⟨-, h⟩ <;> rw [h]
  rfl

theorem view_writePortEnable (b : Bool) : view (writePortEnable b s) = view s := by
  unfold writePortEnable
  split
  · rfl
  · exact view_takePortCommand s

theorem view_writeControl (v : Byte) : view (writeControl v s) = view s :=
  (view_writePortEnable _ _).trans (view_writeOe s _)

theorem view_requestIf (b : Bool) (f : Flag) : view (requestIf b f s) = view s := by
  rw [requestIf_eq]
  rfl

theorem view_endFrame : view (endFrame s) = view s := by
  unfold endFrame
  split
  · exact view_requestIf _ _ _
  all_goals rfl

theorem view_takeOutcome (o : ArrivalOutcome) : view (takeOutcome o s) = view s := by
  cases o <;> rfl

theorem view_takeRecord (b : RecordBody) : view (takeRecord b s) = view s := by
  obtain ⟨q, f, h⟩ := takeRecord_frame b s
  rw [h]
  rfl

theorem view_takeWaiting : view (takeWaiting s) = view s := by
  obtain ⟨q, f, h⟩ := takeWaiting_frame s
  rw [h]
  rfl

theorem view_endInterval : view (endInterval s) = view s := by
  unfold endInterval
  split <;> rfl

theorem view_stampTick : view (stampTick s) = view s := by
  unfold stampTick
  split <;> rfl

theorem view_writeStaging (k : Fin 32) (v : Byte) : view (writeStaging k v s) = view s := by
  unfold writeStaging
  dsimp only
  split <;> rfl

theorem view_writeWatermark (v : Byte) : view (writeWatermark v s) = view s := view_requestIf _ _ _

theorem view_bankTimers : view (bankTimers s) = view s := by
  rw [view, WatchTable.bankTimers_channels, TickOrder.bankTimers_engine]
  rfl

end

/-! ## Events of the channel unit -/

section
variable {s : State} (hs : ChannelsLaw s)
include hs

/-- A change of one channel that does not turn the channel in settlement OFF. -/
theorem modChannel_channelsLaw {c : Fin 16} {f : Channel → Channel}
    (hlaw : ChannelLaw s.channels[c] → ChannelLaw (f s.channels[c]))
    (hon : s.channels[c].state ≠ .off → (f s.channels[c]).state ≠ .off) : ChannelsLaw (modChannel c f s) := by
  obtain ⟨hchannels, hsettling⟩ := hs
  have hself : (modChannel c f s).channels[c] = f s.channels[c] := by rw [modChannel_channels, get_set_self]
  have hother (d : Fin 16) (hd : d ≠ c) : (modChannel c f s).channels[d] = s.channels[d] := by
    rw [modChannel_channels, get_set_ne _ _ hd]
  refine ⟨fun d => ?_, fun d item he => ?_⟩
  · by_cases hd : d = c
    · rw [hd, hself]
      exact hlaw (hchannels c)
    · rw [hother d hd]
      exact hchannels d
  · by_cases hd : d = c
    · subst hd
      rw [hself]
      exact hon (hsettling d item he)
    · rw [hother d hd]
      exact hsettling d item he

/-- An engine that is to settle nothing. -/
theorem channelsLaw_of_idle {t : State} (hchannels : t.channels = s.channels)
    (he : ∀ (c : Fin 16) (item : Item), t.engine ≠ .settling c item) : ChannelsLaw t :=
  ⟨fun c => by rw [hchannels]; exact hs.1 c, fun c item h => absurd h (he c item)⟩

theorem complete_channelsLaw (r : Result) : ChannelsLaw (complete r s) := hs

theorem serveReadChannel_channelsLaw : ChannelsLaw (serveReadChannel s) := by
  unfold serveReadChannel
  split <;> exact hs

theorem serveWriteChannel_channelsLaw : ChannelsLaw (serveWriteChannel s) := by
  unfold serveWriteChannel
  split
  · exact hs
  next c _ =>
  split
  · exact hs
  next cfg _ =>
  split
  · exact hs
  next hpass =>
  have havg : cfg.avgLen = s.channels[c].cfg.avgLen ∨ s.channels[c].state = .off := by
    rw [Bool.and_eq_true, bne_iff_ne, bne_iff_ne, not_and_or, not_not, not_not] at hpass
    exact hpass
  have hstored : ChannelsLaw (modChannel c (fun ch => { ch with cfg := cfg }) s) :=
    modChannel_channelsLaw hs (fun h => withConfig_channelLaw h havg) id
  exact complete_channelsLaw hstored .ok

theorem takeChannelCommand_channelsLaw (c : Fin 16) : ChannelsLaw (takeChannelCommand c s) := by
  unfold takeChannelCommand
  split
  · exact hs
  split
  · exact serveReadChannel_channelsLaw hs
  split
  · exact serveWriteChannel_channelsLaw hs
  · exact hs

/-- A taken item comes from a slot that is not empty, so its channel is not OFF (R37, R137). -/
theorem takeItem_channelsLaw {c : Fin 16} {item : Item} (hslot : s.channels[c].slot = some item) :
    ChannelsLaw (takeItem c item s) := by
  have hon : s.channels[c].state ≠ .off := by
    obtain ⟨-, -, hoff, -⟩ := hs.1 c
    intro e
    rw [(hoff e).1] at hslot
    cases hslot
  have htaken : (takeChannelCommand c s).channels[c].state ≠ .off := by
    rwa [Ticks.takeChannelCommand_state]
  obtain ⟨hchannels, -⟩ : ChannelsLaw (modChannel c (fun ch => { ch with slot := none }) (takeChannelCommand c s)) :=
    modChannel_channelsLaw (takeChannelCommand_channelsLaw hs c) emptied_channelLaw id
  refine ⟨hchannels, fun d other he => ?_⟩
  obtain ⟨rfl, -⟩ := Engine.settling.inj he
  change (modChannel c (fun ch => { ch with slot := none }) (takeChannelCommand c s)).channels[c].state ≠ .off
  rw [modChannel_channels, get_set_self]
  exact htaken

/-- The choice of a free engine (R34 to R36). -/
theorem chooseWork_channelsLaw : ChannelsLaw (chooseWork s) := by
  rcases chooseWork_cases s with ⟨-, h⟩ | ⟨-, -, -, h⟩ | ⟨c, -, -, h⟩ | ⟨c, item, -, -, -, hslot, h⟩ <;> rw [h]
  · exact hs
  · exact hs
  · exact channelsLaw_of_idle hs rfl nofun
  · exact takeItem_channelsLaw hs hslot

theorem comeFree_channelsLaw : ChannelsLaw (comeFree s) := by
  have hfree : ChannelsLaw { s with engine := .free, workItem := s.workItem + 1 } := channelsLaw_of_idle hs rfl nofun
  exact chooseWork_channelsLaw hfree

theorem endService_channelsLaw (r : Result) : ChannelsLaw (endService r s) :=
  comeFree_channelsLaw (complete_channelsLaw hs r)

theorem freshnessExpiry_channelsLaw (c : Fin 16) : ChannelsLaw (freshnessExpiry c s) := by
  rw [freshnessExpiry_eq]
  exact modChannel_channelsLaw (c := c) hs expired_channelLaw (mt WatchTable.expired_off)

theorem channelTick_channelsLaw (c : Fin 16) : ChannelsLaw (channelTick c s) := by
  have hdue : ChannelsLaw { s with due := { s.due with channels := s.due.channels.set c (s.due.channels[c] - 1) } } := hs
  rcases channelTick_cases c s with ⟨-, h⟩ | ⟨-, -, h⟩ | ⟨-, hx, h⟩ <;> rw [h]
  · exact hs
  · exact freshnessExpiry_channelsLaw (takeChannelCommand_channelsLaw hdue c) c
  · exact modChannel_channelsLaw hdue (fun law => ticked_channelLaw law hx) id

theorem channelTicks_channelsLaw : ChannelsLaw (channelTicks s) := by
  have fold : ∀ (cs : List (Fin 16)) (u : State), ChannelsLaw u →
      ChannelsLaw (cs.foldl (fun u c => channelTick c u) u) := by
    intro cs
    induction cs with
    | nil => exact fun _ => id
    | cons c cs ih => exact fun u hu => ih _ (channelTick_channelsLaw hu c)
  have hticked : ChannelsLaw (Ticks.tickedChannels s) := by
    unfold Ticks.tickedChannels
    exact fold (List.finRange 16) s hs
  rw [Ticks.channelTicks_eq_choice]
  exact chooseWork_channelsLaw hticked

theorem bankTick_channelsLaw : ChannelsLaw (bankTick s) := by
  rcases bankTick_cases s with ⟨-, h⟩ | ⟨-, h⟩ <;> rw [h]
  · exact hs
  · exact chooseWork_channelsLaw (channelsLaw_of_view (view_bankTimers s) hs)

/-- The whole tick (R159). -/
theorem tick_channelsLaw : ChannelsLaw (tick s) := by
  have hstamped := channelsLaw_of_view ((view_stampTick _).trans (view_endInterval s)) hs
  rw [tick]
  exact channelTicks_channelsLaw (bankTick_channelsLaw hstamped)

theorem takeArrival_channelsLaw (fromPort : Bool) (c : Fin 16) (raw : Half) (status : SampleStatus) :
    ChannelsLaw (takeArrival fromPort c raw status s).2 := by
  rw [takeArrival_eq]
  refine modChannel_channelsLaw (c := c) (takeChannelCommand_channelsLaw hs c)
    (fun law => arrived_channelLaw law fromPort raw status) ?_
  unfold Claims.arrived
  split <;> exact id

/-- The settling of the taken item, in a channel that is not OFF (R125 to R130). -/
theorem settleTaken_channelsLaw {c : Fin 16} {item : Item} (he : s.engine = .settling c item) :
    ChannelsLaw (settleTaken c item s) := by
  have htaken := takeChannelCommand_channelsLaw hs c
  have hon : (takeChannelCommand c s).channels[c].state ≠ .off := by
    rw [Ticks.takeChannelCommand_state]
    exact hs.2 c item he
  rw [settleTaken]
  generalize takeChannelCommand c s = u at htaken hon
  refine channelsLaw_of_idle (s := (settle c item u).2) ?_ rfl nofun
  cases item with
  | fault => exact htaken
  | sample raw status =>
    have hstill {st : ChannelState} (h : st ≠ .off) : st.afterSample ≠ .off := mt WatchTable.afterSample_off h
    rw [settle]
    cases hx : entering u.channels[c].cfg raw status with
    | some x =>
      rw [settleSample_good hx]
      exact modChannel_channelsLaw (c := c) htaken (fun law => settledGood_channelLaw law hon raw status x) hstill
    | none =>
      rw [settleSample_invalid hx]
      exact modChannel_channelsLaw (c := c) htaken (fun law => settledInvalid_channelLaw law hon raw status) hstill

/-! ## Work items -/

theorem evaluationStep_channelsLaw : ChannelsLaw (evaluationStep s) := by
  unfold evaluationStep
  split
  · next he => exact settleTaken_channelsLaw hs he
  · split
    · exact comeFree_channelsLaw hs
    · next n _ =>
      exact channelsLaw_of_idle (channelsLaw_of_view (view_of_entryWork (handleEntry_work n _ s)) hs) rfl nofun
  all_goals exact hs

omit hs in
theorem evaluationRest_channelsLaw (fuel : Nat) {s : State} (hs : ChannelsLaw s) :
    ChannelsLaw (evaluationRest fuel s) := by
  induction fuel generalizing s with
  | zero => exact hs
  | succ fuel ih =>
    unfold evaluationRest
    split
    · exact ih (evaluationStep_channelsLaw hs)
    all_goals exact hs

theorem evaluationFinish_channelsLaw : ChannelsLaw (evaluationFinish s) := by
  unfold evaluationFinish
  split
  · next he => exact evaluationRest_channelsLaw _ (settleTaken_channelsLaw hs he)
  · exact evaluationRest_channelsLaw _ hs
  all_goals exact hs

theorem handleQualification_channelsLaw (n : Fin 32) : ChannelsLaw (handleQualification n s) := by
  have hserved : ChannelsLaw (serveQualification n s) := by
    unfold serveQualification
    split
    · exact hs
    split
    · exact channelsLaw_of_view (view_of_entryWork (qualificationExpiry_work n s)) hs
    · exact hs
  unfold handleQualification
  dsimp only
  split
  · exact channelsLaw_of_idle hserved rfl nofun
  · exact comeFree_channelsLaw hserved

theorem serveShaping_channelsLaw (n : Fin 32) : ChannelsLaw (serveShaping n s) := by
  unfold serveShaping
  split
  · exact hs
  split
  · exact channelsLaw_of_view (view_of_entryWork (shapingExpiry_work n s)) hs
  · exact hs

theorem releaseAllFrom_channelsLaw (k count : Nat) : ChannelsLaw (releaseAllFrom k count s) := by
  unfold releaseAllFrom
  split
  · next n _ =>
    exact channelsLaw_of_idle (channelsLaw_of_view (view_of_entryWork (releaseEntry_work n s)) hs) rfl nofun
  · have hcounted : ChannelsLaw { s with cmd := { s.cmd with arg0 := BitVec.ofNat 8 count } } := hs
    exact endService_channelsLaw hcounted .ok

theorem releaseAllStep_channelsLaw : ChannelsLaw (releaseAllStep s) := by
  unfold releaseAllStep
  split
  · split
    · exact releaseAllFrom_channelsLaw hs _ _
    · exact hs
  · exact releaseAllFrom_channelsLaw hs _ _
  all_goals exact hs

omit hs in
theorem releaseAllRest_channelsLaw (fuel : Nat) {s : State} (hs : ChannelsLaw s) :
    ChannelsLaw (releaseAllRest fuel s) := by
  induction fuel generalizing s with
  | zero => exact hs
  | succ fuel ih =>
    unfold releaseAllRest
    split
    · exact ih (releaseAllStep_channelsLaw hs)
    all_goals exact hs

/-- The channel unit's part of RESTART (R141). -/
theorem restartChannels_channelsLaw (he : ∀ (c : Fin 16) (item : Item), s.engine ≠ .settling c item) :
    ChannelsLaw (restartChannels s) := by
  have hengine : (restartChannels s).engine = s.engine := by rw [restartChannels]
  refine ⟨fun c => ?_, fun c item h => absurd (hengine.symm.trans h) (he c item)⟩
  rw [restartChannels, get_mapVec]
  exact restarted_channelLaw (hs.1 c)

/-- Each part of RESTART keeps the laws of the channels (R172). -/
theorem restartPart_channelsLaw (p : RestartPart) : ChannelsLaw (restartPart p s) := by
  rcases restartPart_cases p s with h | ⟨-, -, -, h⟩ | ⟨_, _, _, _, _, he, ⟨-, -, h⟩ | ⟨-, -, h⟩ | ⟨-, -, h⟩
    | ⟨-, -, -, -, -, h⟩ | ⟨-, -, -, -, -, -, h⟩ | ⟨-, -, -, -, -, -, h⟩⟩ <;> rw [h]
  · exact hs
  · exact channelsLaw_of_idle hs (by rw [restartEngine]) (by rw [restartEngine]; nofun)
  · exact channelsLaw_of_idle hs (by rw [restartOutputs]) nofun
  · exact channelsLaw_of_idle (restartChannels_channelsLaw hs (by rw [he]; nofun)) rfl nofun
  · exact channelsLaw_of_idle hs rfl nofun
  · exact channelsLaw_of_idle hs rfl nofun
  · have hqueue : view (restartQueue s) = view s := (view_takeRecord _ _).trans (view_takeWaiting s)
    exact channelsLaw_of_idle (channelsLaw_of_view hqueue hs) rfl nofun
  · exact endService_channelsLaw hs .ok

theorem restartAll_channelsLaw : ChannelsLaw (restartAll s) := by
  have fold : ∀ (ps : List RestartPart) (u : State), ChannelsLaw u →
      ChannelsLaw (ps.foldl (fun s p => restartPart p s) u) := by
    intro ps
    induction ps with
    | nil => exact fun _ => id
    | cons p ps ih => exact fun u hu => ih _ (restartPart_channelsLaw hu p)
  exact fold _ s hs

/-! ## Host cycles -/

/-- A CMD_OP write hands a command to its owner, and a table command to a free engine (R167, R34). -/
theorem writeCmdOp_channelsLaw (op : Byte) : ChannelsLaw (writeCmdOp op s) := by
  unfold writeCmdOp handToOwner
  split
  · exact hs
  split
  · split
    · exact chooseWork_channelsLaw (s := takeCommand op s) hs
    · split <;> exact hs
  · exact hs

theorem writeInjTag_channelsLaw (v : Byte) : ChannelsLaw (writeInjTag v s) := by
  have harrival := takeArrival_channelsLaw hs false (tagChannel v) s.inj.value (tagStatus v)
  unfold writeInjTag
  generalize takeArrival false (tagChannel v) s.inj.value (tagStatus v) s = r at harrival
  exact chooseWork_channelsLaw (s := { r.2 with inj := _ }) harrival

theorem writeWindow_channelsLaw (a : Address) (v : Byte) : ChannelsLaw (writeWindow a v s) := by
  unfold writeWindow
  split
  · exact channelsLaw_of_view (view_writeStaging s _ v) hs
  split
  case h_1 => exact channelsLaw_of_view (view_writeControl s v) hs
  case h_4 => exact writeCmdOp_channelsLaw hs v
  case h_7 => exact channelsLaw_of_view (view_writeWatermark s v) hs
  case h_10 => exact writeInjTag_channelsLaw hs v
  all_goals exact hs

end

/-! ## Commands -/

/-- An outcome that, where it is a next state, meets the laws of the channels. -/
def Lawful (o : Host.Outcome State Fault Refusal) : Prop :=
  ∀ t : State, o = .next t → ChannelsLaw t

theorem lawful_next {t : State} (h : ChannelsLaw t) : Lawful (.next t) := by
  rintro u ⟨⟩
  exact h

section
variable {s : State} (hs : ChannelsLaw s)
include hs

/-- A command that is served where it waits, and does nothing where it does not. -/
theorem lawful_ite {t : State} {b : Bool} (h : ChannelsLaw t) : Lawful (.next (if b then t else s)) := by
  cases b
  · exact lawful_next hs
  · exact lawful_next h

/-- A command of another block. -/
theorem lawful_view {t : State} (h : view t = view s) : Lawful (.next t) :=
  lawful_next (channelsLaw_of_view h hs)

theorem lawful_view_ite {t : State} {b : Bool} (h : view t = view s) : Lawful (.next (if b then t else s)) :=
  lawful_ite hs (channelsLaw_of_view h hs)

theorem lawful_hostWrite {f : State → State} (hf : ∀ u : State, ChannelsLaw u → ChannelsLaw (f u)) :
    Lawful (.next (hostWrite f s)) := by
  refine lawful_next ?_
  rw [hostWrite_eq]
  split
  · exact hs
  · exact hf _ hs

theorem lawful_hostWrite_view {f : State → State} (hf : ∀ u : State, view (f u) = view u) :
    Lawful (.next (hostWrite f s)) :=
  lawful_hostWrite hs fun u => channelsLaw_of_view (hf u)

theorem lawful_hostRead {f : State → State} {b : Byte} (hf : ∀ u : State, view (f u) = view u) :
    Lawful (.next (hostRead b f s)) := by
  refine lawful_next ?_
  rw [hostRead_eq]
  split
  · exact hs
  · exact channelsLaw_of_view (hf s) hs

/-- A table command that completes without reaching the channels or the engine's place (R39). -/
theorem lawful_endService {t : State} {r : Result} (h : view t = view s) : Lawful (.next (endService r t)) :=
  lawful_next (endService_channelsLaw (channelsLaw_of_view h hs) r)

theorem execReadEntry_lawful : Lawful (execReadEntry s) := by
  unfold execReadEntry
  split
  · split <;> exact lawful_endService hs rfl
  · exact lawful_next hs

theorem execWriteEntry_lawful : Lawful (execWriteEntry s) := by
  unfold execWriteEntry
  split
  · split
    · exact lawful_endService hs rfl
    split
    · exact lawful_endService hs rfl
    split <;> exact lawful_endService hs rfl
  · exact lawful_next hs

theorem execArm_lawful : Lawful (execArm s) := by
  unfold execArm
  split
  · split
    · exact lawful_endService hs rfl
    dsimp only
    split
    · exact lawful_endService hs rfl
    split <;> exact lawful_endService hs rfl
  · exact lawful_next hs

theorem execDisarm_lawful : Lawful (execDisarm s) := by
  unfold execDisarm
  split
  · split
    · exact lawful_endService hs rfl
    split
    · exact lawful_endService hs rfl
    · exact lawful_endService hs ((view_of_entryWork (withdraw_work _ _)).trans rfl)
  · exact lawful_next hs

theorem execRelease_lawful : Lawful (execRelease s) := by
  unfold execRelease
  split
  · split
    · exact lawful_endService hs rfl
    split
    · exact lawful_endService hs rfl
    · exact lawful_endService hs (view_of_entryWork (releaseEntry_work _ s))
    all_goals exact lawful_endService hs rfl
  · exact lawful_next hs

theorem execReleaseAll_lawful (x : Extent) : Lawful (execReleaseAll x s) := by
  cases x with
  | advance => exact lawful_next (releaseAllStep_channelsLaw hs)
  | finish => exact lawful_next (releaseAllRest_channelsLaw 32 (releaseAllStep_channelsLaw hs))

/-- ENABLE starts a channel with an empty ring and an empty slot (R136). -/
theorem execEnable_lawful : Lawful (execEnable s) := by
  unfold execEnable
  split
  · split
    · exact lawful_endService hs rfl
    split
    · exact lawful_endService hs rfl
    · exact lawful_next (endService_channelsLaw (modChannel_channelsLaw hs (fun _ => enabled_channelLaw) nofun) _)
  · exact lawful_next hs

/-- DISABLE turns a channel OFF while the engine settles nothing: the channel itself need not be asked (R39, R137). -/
theorem execDisable_lawful : Lawful (execDisable s) := by
  unfold execDisable
  split
  · next hready =>
    have hengine : s.engine = .taken .table := (tableReady_iff.mp hready).1
    split
    · exact lawful_endService hs rfl
    split
    · exact lawful_endService hs rfl
    next c _ _ =>
    split
    · exact lawful_endService hs rfl
    · have hlaw (d : Fin 16) : ChannelLaw (modChannel c Channel.disabled s).channels[d] := by
        rw [modChannel_channels, get_set]
        split
        · exact disabled_channelLaw
        · exact hs.1 d
      have hdisabled : ChannelsLaw (modChannel c Channel.disabled s) :=
        ⟨hlaw, fun _ _ he => absurd (hengine.symm.trans he) nofun⟩
      exact lawful_next (endService_channelsLaw hdisabled _)
  · exact lawful_next hs

theorem execRestart_lawful (x : RestartExtent) : Lawful (execRestart x s) := by
  cases x with
  | finish => exact lawful_next (restartAll_channelsLaw hs)
  | part p => exact lawful_next (restartPart_channelsLaw hs p)

theorem execEvaluation_lawful (x : Extent) : Lawful (execEvaluation x s) := by
  cases x with
  | advance => exact lawful_next (evaluationStep_channelsLaw hs)
  | finish => exact lawful_next (evaluationFinish_channelsLaw hs)

theorem execQualificationExpiryTaken_lawful : Lawful (execQualificationExpiryTaken s) := by
  unfold execQualificationExpiryTaken
  split
  · exact lawful_next (handleQualification_channelsLaw hs _)
  · exact lawful_next (comeFree_channelsLaw hs)
  all_goals exact lawful_next hs

theorem execShapingExpiryTaken_lawful : Lawful (execShapingExpiryTaken s) := by
  unfold execShapingExpiryTaken
  split
  · exact lawful_next (comeFree_channelsLaw (serveShaping_channelsLaw hs _))
  all_goals exact lawful_next hs

theorem execTickBy_lawful (x : TickExtent) : Lawful (execTickBy x s) := by
  cases x with
  | whole => exact lawful_next (tick_channelsLaw hs)
  | interval => exact lawful_view hs (view_endInterval s)
  | timestamp => exact lawful_view hs (view_stampTick s)
  | timerBank => exact lawful_next (bankTick_channelsLaw hs)
  | channelUnit => exact lawful_next (channelTicks_channelsLaw hs)

theorem execPop_lawful : Lawful (execPop s) := by
  unfold execPop
  split
  · split <;> exact lawful_view hs rfl
  · exact lawful_next hs

theorem execFlush_lawful : Lawful (execFlush s) := by
  unfold execFlush
  split <;> exact lawful_view hs rfl

theorem execReadAcc_lawful : Lawful (execReadAcc s) := by
  unfold execReadAcc
  split
  · exact lawful_next hs
  · next h =>
    obtain ⟨-, rest, -, rfl⟩ := takeAccCommand_eq_some.mp h
    split <;> exact lawful_view hs rfl

theorem execWriteAcc_lawful : Lawful (execWriteAcc s) := by
  unfold execWriteAcc
  split
  · exact lawful_next hs
  · next h =>
    obtain ⟨-, rest, -, rfl⟩ := takeAccCommand_eq_some.mp h
    split <;> exact lawful_view hs rfl

theorem execCaptureStep_lawful : Lawful (execCaptureStep s) := by
  unfold execCaptureStep
  split <;> exact lawful_view hs rfl

theorem execArrival_lawful : Lawful (execArrival s) := by
  unfold execArrival
  split
  · exact lawful_next hs
  · next a rest _ =>
    have harrival := takeArrival_channelsLaw (s := { s with port := { s.port with delivered := rest } }) hs true
      a.channel a.raw a.status
    dsimp only
    generalize takeArrival true a.channel a.raw a.status _ = r at harrival
    exact lawful_next (chooseWork_channelsLaw (s := { r.2 with port := _ }) harrival)

theorem execArrivalOutcome_lawful : Lawful (execArrivalOutcome s) := by
  unfold execArrivalOutcome
  split
  · exact lawful_next hs
  · exact lawful_view hs ((view_takeOutcome _ _).trans (view_takePortCommand s))

theorem execFrameStart_lawful : Lawful (execFrameStart s) := by
  unfold execFrameStart
  split
  · exact lawful_next hs
  split
  · exact lawful_view hs rfl
  · exact lawful_view hs (view_takePortCommand s)

theorem execFrameEnd_lawful : Lawful (execFrameEnd s) := by
  unfold execFrameEnd
  split
  · exact lawful_next hs
  split
  · exact lawful_view hs rfl
  · exact lawful_view hs ((view_endFrame _).trans (view_takePortCommand s))

theorem execSclkRisingEdge_lawful (sdat : Bool) : Lawful (execSclkRisingEdge sdat s) := by
  unfold execSclkRisingEdge
  split
  · exact lawful_next hs
  · exact lawful_view hs (view_takePortCommand s)

theorem execRecordSubmission_lawful (who : Submitter) : Lawful (execRecordSubmission who s) := by
  unfold execRecordSubmission
  split
  · exact lawful_view hs (view_takeRecord _ _)
  · exact lawful_next hs

theorem execShutoffAssert_lawful : Lawful (execShutoffAssert s) := by
  unfold execShutoffAssert
  split
  · exact lawful_next hs
  split
  · exact lawful_view hs rfl
  · exact lawful_view hs ((view_assertShutoff _).trans (view_takeLineCommand s))

/-- Every command keeps the laws of the channels. -/
theorem exec_lawful (c : Instr) : Lawful (exec c s) := by
  cases c with
  | readEntry => exact execReadEntry_lawful hs
  | writeEntry => exact execWriteEntry_lawful hs
  | arm => exact execArm_lawful hs
  | disarm => exact execDisarm_lawful hs
  | release => exact execRelease_lawful hs
  | releaseAll x => exact execReleaseAll_lawful hs x
  | readChannel => exact lawful_ite hs (serveReadChannel_channelsLaw hs)
  | writeChannel => exact lawful_ite hs (serveWriteChannel_channelsLaw hs)
  | enable => exact execEnable_lawful hs
  | disable => exact execDisable_lawful hs
  | readLine => exact lawful_view_ite hs (view_serveReadLine s)
  | writeLine => exact lawful_view_ite hs (view_serveWriteLine s)
  | silence => exact lawful_view_ite hs (view_serveSilence s)
  | override => exact lawful_view_ite hs (view_serveOverride s)
  | resume => exact lawful_view_ite hs (view_serveResume s)
  | pop => exact execPop_lawful hs
  | flush => exact execFlush_lawful hs
  | readAcc => exact execReadAcc_lawful hs
  | writeAcc => exact execWriteAcc_lawful hs
  | clearPortCounts => exact lawful_view_ite hs rfl
  | restart x => exact execRestart_lawful hs x
  | badOpcode op | cmdOpWriteLost op | commandTaken op =>
    exact lawful_hostWrite hs fun u hu => writeCmdOp_channelsLaw hu op
  | evaluation x => exact execEvaluation_lawful hs x
  | captureStep => exact execCaptureStep_lawful hs
  | qualificationTimerExpiry n | shapingTimerExpiry n => exact lawful_ite hs (bankTick_channelsLaw hs)
  | qualificationExpiryTaken => exact execQualificationExpiryTaken_lawful hs
  | shapingExpiryTaken => exact execShapingExpiryTaken_lawful hs
  | tickBy x => exact execTickBy_lawful hs x
  | freshnessExpiry c => exact lawful_ite hs (chooseWork_channelsLaw (channelTick_channelsLaw hs c))
  | arrival => exact execArrival_lawful hs
  | arrivalOutcome => exact execArrivalOutcome_lawful hs
  | frameStart => exact execFrameStart_lawful hs
  | frameEnd => exact execFrameEnd_lawful hs
  | injTagWrite v => exact lawful_hostWrite hs fun u hu => writeInjTag_channelsLaw hu v
  | injValueLowWrite v | injValueHighWrite v | tbdivLowWrite v | tbdivHighWrite v | intFlagsClear v | intMaskWrite v =>
    exact lawful_hostWrite_view hs fun _ => rfl
  | oeChange v | portEnChange v => exact lawful_hostWrite_view hs fun u => view_writeControl u v
  | watermarkWrite v => exact lawful_hostWrite_view hs fun u => view_writeWatermark u v
  | headLatchLoad | timestampLatchLoad | bitmapLatchLoad b => exact lawful_hostRead hs fun _ => rfl
  | registerWrite a v => exact lawful_hostWrite hs fun u hu => writeWindow_channelsLaw hu a v
  | recordSubmission who => exact execRecordSubmission_lawful hs who
  | shutoffAssert => exact execShutoffAssert_lawful hs
  | shutoffRelease => exact lawful_view_ite hs (view_takeLineCommand s)
  | powerOnReset => exact lawful_next (t := powerOn s) AtReset.channelsLaw_reset
  | powerOnResetEnd => exact lawful_view_ite hs rfl
  | sclkRisingEdge sdat => exact execSclkRisingEdge_lawful hs sdat

/-- A CLKIN period keeps them too (R156). -/
theorem clkin_channelsLaw : ChannelsLaw (clkin s) := by
  unfold clkin
  split
  · exact hs
  split
  · exact tick_channelsLaw hs
  · exact hs

end

/-- Settles O11: by cases on what a step does, the command at the front of the queue or a CLKIN period. -/
theorem stepKeepsChannelsLaw : Obligations.StepKeepsChannelsLaw := by
  intro s t hs hstep
  unfold step at hstep
  split at hstep
  · exact lawful_next (clkin_channelsLaw hs) t hstep
  · next c rest _ =>
    have hrest : ChannelsLaw { s with pending := rest } := hs
    exact exec_lawful hrest c t hstep

end Sys2Proof.ChannelLaws
end

section
/-! PROOFS. The sample port: the bits of a frame shifted in (O52), what a fall of SFRM makes of it (O53), the outcomes and
the counters (O54). Each event of the port is first said as what the port makes of what it finds. -/

namespace Sys2Proof.SamplePort

open Sys2Proof.Machine Sys2Proof.Claims Sys2Proof.Reads Sys2Proof.QueueCommands Sys2Proof.SampleIntake

/-! ## The command that waits with the port -/

theorem portTaken_idle {s : State} (h : ¬ Waits .clearPortCounts s) : portTaken s = s := by
  rw [portTaken_eq, takePortCommand, if_neg (mt ready_iff.mp h)]

/-- R150, R168: CLEAR_PORT_COUNTS, which waits with the port, is served. -/
theorem portTaken_waiting {s : State} (h : Waits .clearPortCounts s) : portTaken s =
    completed .ok { s with port := { s.port with marker := 0, parity := 0, length := 0, unrouted := 0 } } := by
  rw [portTaken_eq, takePortCommand, if_pos (ready_iff.mpr h)]
  rfl

/-- Behind its completion nothing waits with the port. -/
theorem portTaken_portTaken (s : State) : portTaken (portTaken s) = portTaken s := by
  by_cases h : Waits .clearPortCounts s
  · rw [portTaken_waiting h]
    exact portTaken_idle fun hw => nomatch hw.1
  · rw [portTaken_idle h, portTaken_idle h]

/-- The command moves no more of the port than its counters. -/
theorem portTaken_port (s : State) : ∃ marker parity length unrouted : Byte, (portTaken s).port =
    { s.port with marker := marker, parity := parity, length := length, unrouted := unrouted } := by
  by_cases h : Waits .clearPortCounts s
  · exact ⟨0, 0, 0, 0, by rw [portTaken_waiting h]; rfl⟩
  · exact ⟨_, _, _, _, by rw [portTaken_idle h]⟩

theorem portTaken_inReset (s : State) : (portTaken s).inReset = s.inReset := by
  by_cases h : Waits .clearPortCounts s
  · rw [portTaken_waiting h]
    rfl
  · rw [portTaken_idle h]

theorem portTaken_sfrm (s : State) : (portTaken s).sfrm = s.sfrm := by
  by_cases h : Waits .clearPortCounts s
  · rw [portTaken_waiting h]
    rfl
  · rw [portTaken_idle h]

/-! ## The port's events -/

section
variable {s : State} (hr : s.inReset = false)
include hr

/-- A rise of SFRM (R144). -/
theorem frameStart_eq (hf : s.sfrm = false) :
    exec .frameStart s = .next (modPort Port.frameStart { portTaken s with sfrm := true }) := by
  rw [portTaken_eq, exec, execFrameStart, hf, hr]
  rfl

/-- An edge of SCLK (R145). -/
theorem sclk_eq (b : Bool) : exec (.sclkRisingEdge b) s = .next (modPort (Port.sclk b) (portTaken s)) := by
  rw [portTaken_eq, exec, execSclkRisingEdge, hr]
  rfl

/-- A fall of SFRM (R146). -/
theorem frameEnd_eq (hf : s.sfrm = true) :
    exec .frameEnd s = .next (endFrame { portTaken s with sfrm := false }) := by
  rw [portTaken_eq, exec, execFrameEnd, hf, hr]
  rfl

end

/-- R144: an event of the port is the same event behind the command that waits there. -/
theorem events_behind_portTaken {s : State} (hr : s.inReset = false) :
    (s.sfrm = false → exec .frameStart s = exec .frameStart (portTaken s))
      ∧ ∀ b : Bool, exec (.sclkRisingEdge b) s = exec (.sclkRisingEdge b) (portTaken s) := by
  have hreset : (portTaken s).inReset = false := (portTaken_inReset s).trans hr
  refine ⟨fun hf => ?_, fun b => ?_⟩
  · rw [frameStart_eq hr hf, frameStart_eq hreset ((portTaken_sfrm s).trans hf), portTaken_portTaken]
  · rw [sclk_eq hr, sclk_eq hreset, portTaken_portTaken]

/-! ## Reception -/

theorem frameStart_idle {p : Port} (h : p.reception = .idle) :
    p.frameStart = { p with reception := .receiving, shiftReg := 0, bitCount := 0 } := by
  simp only [Port.frameStart, h]

theorem frameStart_disabled {p : Port} (h : p.reception = .disabled) : p.frameStart = p := by
  simp only [Port.frameStart, h]

/-- The shift register with one bit more, the oldest lost (R145). -/
def shiftedIn (b : Bool) (r : BitVec 24) : BitVec 24 :=
  (r <<< 1) ||| (BitVec.ofBool b).setWidth 24

theorem shiftedIn_toNat (b : Bool) (r : BitVec 24) : (shiftedIn b r).toNat = (2 * r.toNat + b.toNat) % 2 ^ 24 := by
  have hdisjoint : (r <<< 1) &&& (BitVec.ofBool b).setWidth 24 = 0#24 := by
    apply BitVec.eq_of_getLsbD_eq
    intro i hi
    cases i <;> simp
  have hbit : ((BitVec.ofBool b).setWidth 24).toNat = b.toNat := by cases b <;> rfl
  rw [shiftedIn, ← BitVec.add_eq_or_of_and_eq_zero _ _ hdisjoint, BitVec.toNat_add, BitVec.toNat_shiftLeft, hbit,
    Nat.shiftLeft_eq]
  omega

theorem sclk_bit {p : Port} (h : p.reception = .receiving) (hn : p.bitCount < 24) (b : Bool) :
    p.sclk b = { p with shiftReg := shiftedIn b p.shiftReg, bitCount := p.bitCount + 1 } := by
  simp only [Port.sclk, h, if_pos hn, shiftedIn]

theorem sclk_full {p : Port} (h : p.reception = .receiving) (hn : 24 ≤ p.bitCount) (b : Bool) :
    p.sclk b = { p with bitCount := 25 } := by
  simp only [Port.sclk, h, if_neg (Nat.not_lt.mpr hn)]

theorem sclk_ignored {p : Port} (h : p.reception ≠ .receiving) (b : Bool) : p.sclk b = p := by
  unfold Port.sclk
  split
  · next e => exact absurd e h
  all_goals rfl

/-! ## 24 edges -/

/-- The frame's first `k` bits have been shifted in (R145). -/
def shiftedBits (f : BitVec 24) (k : Nat) (s : State) : State :=
  { s with
    sfrm := true
    port := { s.port with reception := .receiving, shiftReg := f >>> (24 - k), bitCount := k } }

/-- The bit behind the first `k`, shifted in behind them. -/
theorem shiftedIn_bits (f : BitVec 24) {k : Nat} (hk : k < 24) :
    shiftedIn (f.getLsbD (23 - k)) (f >>> (24 - k)) = f >>> (24 - (k + 1)) := by
  apply BitVec.eq_of_getLsbD_eq
  intro i hi
  cases i with
  | zero => simp [shiftedIn, show 24 - (k + 1) = 23 - k by omega]
  | succ j => simp [shiftedIn, hi, show 24 - k + j = 24 - (k + 1) + (j + 1) by omega]

section
variable {s : State} (hr : s.inReset = false) (hw : ¬ Waits .clearPortCounts s)
include hr hw

theorem sclk_shiftedBits (f : BitVec 24) {k : Nat} (hk : k < 24) :
    exec (.sclkRisingEdge (f.getLsbD (23 - k))) (shiftedBits f k s) = .next (shiftedBits f (k + 1) s) := by
  have hidle : ¬ Waits .clearPortCounts (shiftedBits f k s) := hw
  rw [sclk_eq (s := shiftedBits f k s) hr, portTaken_idle hidle, modPort, sclk_bit rfl hk]
  simp only [shiftedBits, shiftedIn_bits f hk]

/-- The bits from the `k`-th on, one after another. -/
theorem runAll_shiftedBits (f : BitVec 24) (m k : Nat) (h : k + m ≤ 24) :
    runAll ((List.range' k m).map fun i => .sclkRisingEdge (f.getLsbD (23 - i))) (shiftedBits f k s) =
      some (shiftedBits f (k + m) s) := by
  induction m generalizing k with
  | zero => rfl
  | succ m ih =>
    rw [List.range'_succ, List.map_cons, runAll, sclk_shiftedBits hr hw f (by omega)]
    dsimp only
    rw [ih (k + 1) (by omega), Nat.add_assoc, Nat.add_comm 1 m]

/-- A whole frame, from the rise of SFRM to its last bit. -/
theorem runAll_frame (f : BitVec 24) (hf : s.sfrm = false) (hidle : s.port.reception = .idle) :
    runAll (.frameStart :: (List.range 24).map fun i => .sclkRisingEdge (f.getLsbD (23 - i))) s =
      some (shiftedBits f 24 s) := by
  have hstart : exec .frameStart s = .next (shiftedBits f 0 s) := by
    have hempty : f >>> (24 - 0) = 0 := BitVec.ushiftRight_eq_zero (Nat.le_refl 24)
    rw [frameStart_eq hr hf, portTaken_idle hw, modPort, frameStart_idle hidle, shiftedBits, hempty]
  rw [runAll, hstart, List.range_eq_range']
  exact runAll_shiftedBits hr hw f 24 0 (by decide)

end

/-- Settles O52: a frame is shifted in by induction on its bits, and each edge is what the port makes of it. -/
theorem twentyFourEdgesShiftTheFrameIn : Obligations.TwentyFourEdgesShiftTheFrameIn := by
  intro s hr hw
  have hedge (b : Bool) : exec (.sclkRisingEdge b) s = .next { s with port := s.port.sclk b } := by
    rw [sclk_eq hr, portTaken_idle hw, modPort]
  have hstart (hf : s.sfrm = false) :
      exec .frameStart s = .next { s with sfrm := true, port := s.port.frameStart } := by
    rw [frameStart_eq hr hf, portTaken_idle hw, modPort]
  refine ⟨fun f hf hidle => ?_, fun hf hidle => ?_, fun b hrec hn => ?_, fun b hrec hn => ?_, fun b hrec => ?_,
    fun hf hdis => ?_⟩
  · rw [runAll_frame hr hw f hf hidle, shiftedBits, Nat.sub_self, BitVec.ushiftRight_zero]
  · rw [hstart hf, frameStart_idle hidle]
  · exact ⟨shiftedIn b s.port.shiftReg, shiftedIn_toNat b _, by rw [hedge, sclk_bit hrec hn]⟩
  · rw [hedge, sclk_full hrec hn]
  · rw [hedge, sclk_ignored hrec]
  · rw [hstart hf, frameStart_disabled hdis]

/-! ## The end of a frame -/

/-- The end of a reception (R146, R147, R149): the checks, and the PORT request of a bad frame. -/
theorem endFrame_receiving {s : State} (h : s.port.reception = .receiving) :
    endFrame s = requestIf s.port.badFrame .port { s with port := s.port.checked } := by
  simp only [endFrame, h, modPort]

theorem endFrame_waitLow {s : State} (h : s.port.reception = .waitLow) :
    endFrame s = { s with port := { s.port with reception := .idle } } := by
  simp only [endFrame, h, modPort]

theorem endFrame_disabled {s : State} (h : s.port.reception = .disabled) : endFrame s = s := by
  simp only [endFrame, h]

section
variable {p : Port}

/-- A wrong length is counted in LENGTH, and nothing else is looked at (R146). -/
theorem checked_wrongLength (h : p.bitCount ≠ 24) : p.badFrame = true ∧ p.checked =
    { p with reception := .idle, length := BitVec.ofNat 8 (min 255 (p.length.toNat + 1)) } := by
  simp [Port.badFrame, Port.checked, Port.lengthError, Port.markerError, Port.parityError, h, satInc_eq_min]

/-- The checks of a frame of the right length (R146). -/
theorem errors_of_length (h : p.bitCount = 24) :
    p.lengthError = false ∧ p.markerError = !p.shiftReg.getLsbD 23
      ∧ p.parityError = (frameOnes p.shiftReg % 2 == 1) := by
  simp [Port.lengthError, Port.markerError, Port.parityError, frameMarker, h]

/-- A marker of 0 and an odd number of 1 bits are each counted (R146, Table 8-2). -/
theorem checked_bad (h : p.bitCount = 24)
    (hbad : p.shiftReg.getLsbD 23 = false ∨ (frameOnes p.shiftReg % 2 == 1) = true) :
    p.badFrame = true ∧ p.checked = { p with
      reception := .idle
      marker := if p.shiftReg.getLsbD 23 then p.marker else BitVec.ofNat 8 (min 255 (p.marker.toNat + 1))
      parity := if frameOnes p.shiftReg % 2 == 1 then BitVec.ofNat 8 (min 255 (p.parity.toNat + 1))
        else p.parity } := by
  obtain ⟨hlength, hmarker, hparity⟩ := errors_of_length h
  have hbadFrame : p.badFrame = true := by
    rw [Port.badFrame, hlength, hmarker, hparity, Bool.false_or, Bool.or_eq_true, Bool.not_eq_true']
    exact hbad
  refine ⟨hbadFrame, ?_⟩
  rw [Port.checked, hbadFrame, hlength, hmarker, hparity, satInc_eq_min, satInc_eq_min]
  cases p.shiftReg.getLsbD 23 <;> rfl

/-- A good frame is delivered (R147). -/
theorem checked_good (h : p.bitCount = 24) (hmark : p.shiftReg.getLsbD 23 = true)
    (heven : (frameOnes p.shiftReg % 2 == 1) = false) :
    p.badFrame = false ∧ p.checked =
      { p with reception := .idle, delivered := p.delivered ++ [frameArrival p.shiftReg] } := by
  obtain ⟨hlength, hmarker, hparity⟩ := errors_of_length h
  have hgood : p.badFrame = false := by rw [Port.badFrame, hlength, hmarker, hparity, hmark, heven]; rfl
  refine ⟨hgood, ?_⟩
  rw [Port.checked, hgood, hlength, hmarker, hparity, hmark, heven]
  rfl

end

theorem sampleStatusCode_ofCode {k : Nat} (h : k < 4) : sampleStatusCode (SampleStatus.ofCode k) = k := by
  interval_cases k <;> rfl

/-- The three fields of a frame (Table 8-1). -/
theorem frameArrival_fields (f : BitVec 24) :
    (frameArrival f).channel.val = f.toNat / 2 ^ 19 % 16
      ∧ sampleStatusCode (frameArrival f).status = f.toNat / 2 ^ 17 % 4
      ∧ (frameArrival f).raw.toNat = f.toNat / 2 % 2 ^ 16 := by
  refine ⟨rfl, sampleStatusCode_ofCode (Nat.mod_lt _ (by decide)), ?_⟩
  rw [frameArrival, BitVec.toNat_setWidth, BitVec.toNat_ushiftRight, Nat.shiftRight_eq_div_pow, Nat.pow_one]

/-- Settles O53: by the reception state, and in RECEIVING by the checks in their order. -/
theorem frameEndChecksAndDelivers : Obligations.FrameEndChecksAndDelivers := by
  rintro s u hr hf rfl
  rw [frameEnd_eq hr hf]
  obtain ⟨marker, parity, length, unrouted, hport⟩ := portTaken_port s
  have hreception : (portTaken s).port.reception = s.port.reception := by rw [hport]
  have hcount : (portTaken s).port.bitCount = s.port.bitCount := by rw [hport]
  have hshift : (portTaken s).port.shiftReg = s.port.shiftReg := by rw [hport]
  have hdelivered : (portTaken s).port.delivered = s.port.delivered := by rw [hport]
  rw [← hreception, ← hcount, ← hshift, ← hdelivered]
  generalize portTaken s = u
  refine ⟨fun hrec hn => ?_, fun hrec hn odd hodd => ⟨fun hbad => ?_, fun hmark heven => ?_⟩, fun hwait => ?_,
    fun hdis => ?_⟩
  · obtain ⟨hbad, hchecked⟩ := checked_wrongLength hn
    rw [endFrame_receiving (s := { u with sfrm := false }) hrec]
    dsimp only
    rw [hbad, hchecked]
    rfl
  · subst hodd
    obtain ⟨hbad, hchecked⟩ := checked_bad hn hbad
    rw [endFrame_receiving (s := { u with sfrm := false }) hrec]
    dsimp only
    rw [hbad, hchecked]
    rfl
  · subst hodd
    obtain ⟨hgood, hchecked⟩ := checked_good hn hmark heven
    obtain ⟨hchannel, hstatus, hraw⟩ := frameArrival_fields u.port.shiftReg
    refine ⟨frameArrival u.port.shiftReg, hchannel, hstatus, hraw, ?_⟩
    rw [endFrame_receiving (s := { u with sfrm := false }) hrec]
    dsimp only
    rw [hgood, hchecked]
    rfl
  · rw [endFrame_waitLow (s := { u with sfrm := false }) hwait]
  · rw [endFrame_disabled (s := { u with sfrm := false }) hdis]

/-! ## Outcomes and counters -/

theorem arrivalOutcome_eq {s : State} {o : ArrivalOutcome} {rest : List ArrivalOutcome}
    (h : s.port.outcomes = o :: rest) :
    exec .arrivalOutcome s =
      .next (takeOutcome o { portTaken s with port := { (portTaken s).port with outcomes := rest } }) := by
  simp only [exec, execArrivalOutcome, h, portTaken_eq, modPort]

/-- A refused outcome is counted, and makes the PORT request (R148, R149). -/
theorem takeOutcome_refused {o : ArrivalOutcome} (h : o ≠ .accepted) (s : State) : takeOutcome o s = { s with
    port := { s.port with unrouted := BitVec.ofNat 8 (min 255 (s.port.unrouted.toNat + 1)) }
    intr := { s.intr with flags := s.intr.flags ||| 0x10 } } := by
  rw [← satInc_eq_min]
  cases o with
  | accepted => exact absurd rfl h
  | refusedSource | refusedOff => rfl

/-- Settles O54: by the outcome, and by what an event of the port finds where CLEAR_PORT_COUNTS waits. -/
theorem outcomesAreCountedAndCountsCleared : Obligations.OutcomesAreCountedAndCountsCleared := by
  refine ⟨?_, ?_⟩
  · rintro s u o rest ho rfl
    rw [arrivalOutcome_eq ho]
    refine ⟨?_, fun hrefused => by rw [takeOutcome_refused hrefused]⟩
    rintro rfl
    rfl
  · rintro s u hw rfl
    rw [← portTaken_waiting hw]
    refine ⟨?_, events_behind_portTaken⟩
    rw [portTaken_waiting hw, exec, execClearPortCounts, if_pos (ready_iff.mpr hw)]
    rfl

end Sys2Proof.SamplePort
end

section
/-! PROOFS. The laws of the sample port, the timebase, the command in progress and the engine are kept by every step
(O12). The laws fall into those of the units besides the engine (`Standing`), what the engine's present work rests on
(`WorkLaw`), and that nothing waits for a free engine (`FreeLaw`). An event that raises a claim keeps the first two, and
the choice of a free engine then brings about the third (`chooseWork_laws`). -/

namespace Sys2Proof.EngineLaws

open Sys2Proof.Machine Sys2Proof.Safety Sys2Proof.Claims Sys2Proof.Contributions Sys2Proof.Handling Sys2Proof.Edges
  Sys2Proof.Choosing

/-! ## The laws, taken apart -/

/-- R110: of the events that wait for the capture unit one is a command, while one of its two commands is PENDING. -/
abbrev CaptureLaw (s : State) : Prop :=
  s.captures.count .command = if ready .readAcc s || ready .writeAcc s then 1 else 0

/-- R39, R56, R172, R35: the command of the engine's work item is PENDING, and the claim it has taken has been
raised. -/
abbrev WorkLaw (s : State) : Prop :=
  (∀ k count : Nat, s.engine = .releasing k count → ready .releaseAll s = true)
    ∧ (∀ out ch port irq rec : Bool, s.engine = .restarting out ch port irq rec → ready .restart s = true)
    ∧ (s.engine = .taken .table → tableWaiting s = true)
    ∧ (∀ n : Fin 32, s.engine = .taken (.expiry n .qualification) → s.entries[n].qualClaim = true)
    ∧ (∀ n : Fin 32, s.engine = .taken (.expiry n .shaping) → s.entries[n].shapeClaim = true)

/-- R34: the engine is free only while no claim waits. -/
abbrev FreeLaw (s : State) : Prop :=
  s.engine = .free →
    (∀ n : Fin 32, s.entries[n].qualClaim = false ∧ s.entries[n].shapeClaim = false) ∧ tableWaiting s = false
      ∧ ∀ c : Fin 16, s.channels[c].slot = none

/-- The laws in which the engine has no part. -/
structure Standing (s : State) : Prop where
  port : PortLaw s
  timebase : TimebaseLaw s
  captures : CaptureLaw s

/-- All the laws of O12. -/
structure Laws (s : State) : Prop where
  standing : Standing s
  work : WorkLaw s
  free : FreeLaw s

theorem laws_iff {s : State} : Laws s ↔ PortLaw s ∧ TimebaseLaw s ∧ CommandLaw s ∧ EngineLaw s := by
  constructor
  · rintro ⟨⟨hport, htimebase, hcaptures⟩, ⟨hreleasing, hrestarting, htable, hqual, hshape⟩, hfree⟩
    exact ⟨hport, htimebase, ⟨hreleasing, hrestarting, hcaptures⟩, hfree, hqual, hshape, htable⟩
  · rintro ⟨hport, htimebase, ⟨hreleasing, hrestarting, hcaptures⟩, hfree, hqual, hshape, htable⟩
    exact ⟨⟨hport, htimebase, hcaptures⟩, ⟨hreleasing, hrestarting, htable, hqual, hshape⟩, hfree⟩

/-! ## The command that is PENDING -/

/-- Table 10-2: the capture unit serves READ_ACC and WRITE_ACC. -/
theorem isCapture_iff {c : Command} : c.isCapture = true ↔ c = .readAcc ∨ c = .writeAcc := by
  cases c <;> decide

/-- No command has two owners (Table 10-2). -/
theorem isCapture_of_isTable {c : Command} (h : c.isTable = true) : c.isCapture = false := by
  revert h
  cases c <;> decide

section
variable {s : State}

/-- One command is with its owner at a time (R167). -/
theorem ready_other {c d : Command} (h : ready c s = true) (hd : d ≠ c) : ready d s = false :=
  Bool.eq_false_iff.mpr fun hr =>
    hd (encodeOpcode_injective ((ready_iff.mp hr).2.symm.trans (ready_iff.mp h).2))

theorem ready_of_not_pending (h : s.cmd.state ≠ .pending) (c : Command) : ready c s = false :=
  Bool.eq_false_iff.mpr fun hr => h (ready_iff.mp hr).1

theorem tableWaiting_of_not_pending (h : s.cmd.state ≠ .pending) : tableWaiting s = false :=
  Bool.eq_false_iff.mpr fun hw => (tableWaiting_iff.mp hw).elim fun _ hd => h hd.2.1

theorem complete_not_pending (r : Result) (s : State) : (complete r s).cmd.state ≠ .pending := by
  rw [complete_cmd]
  nofun

/-- The command that is PENDING waits for the engine exactly when it is a table command (R34). -/
theorem tableWaiting_of_ready {c : Command} (h : ready c s = true) : tableWaiting s = c.isTable := by
  obtain ⟨hstate, hop⟩ := ready_iff.mp h
  rw [tableWaiting, hstate, hop, decodeOpcode_encodeOpcode]
  rfl

/-- No command of the capture unit is PENDING while another is. -/
theorem accReady_eq_false {c : Command} (h : ready c s = true) (hc : c.isCapture = false) :
    (ready .readAcc s || ready .writeAcc s) = false := by
  have hne {d : Command} (hd : d.isCapture = true) : d ≠ c := by
    rintro rfl
    exact absurd (hd.symm.trans hc) nofun
  rw [ready_other h (hne rfl), ready_other h (hne rfl)]
  rfl

theorem accReady_of_ready {c : Command} (h : ready c s = true) (hc : c.isCapture = true) :
    (ready .readAcc s || ready .writeAcc s) = true := by
  rw [Bool.or_eq_true]
  rcases isCapture_iff.mp hc with rfl | rfl
  · exact .inl h
  · exact .inr h

theorem accReady_of_not_pending (h : s.cmd.state ≠ .pending) : (ready .readAcc s || ready .writeAcc s) = false := by
  rw [ready_of_not_pending h, ready_of_not_pending h]
  rfl

/-- With no command of the capture unit PENDING, none waits with it (R110). -/
theorem captureLaw_of_idle (h : (ready .readAcc s || ready .writeAcc s) = false) :
    CaptureLaw s ↔ s.captures.count .command = 0 := by
  rw [CaptureLaw, h]
  rfl

/-- Behind a completion no command waits with the capture unit (R110, R168). -/
theorem captureLaw_complete (r : Result) : CaptureLaw (complete r s) ↔ s.captures.count .command = 0 :=
  captureLaw_of_idle (accReady_of_not_pending (complete_not_pending r s))

end

/-! ## What the laws go by -/

/-- What the laws go by besides the engine: the port, the prescale count, the command that waits for the capture unit,
and the table commands that are PENDING. -/
structure Units where
  reception : Reception
  enabled : Bool
  bitCount : Nat
  sfrm : Bool
  prescale : Nat
  divider : Half
  commands : Nat
  accReady : Bool
  tableReady : Command → Bool

def units (s : State) : Units where
  reception := s.port.reception
  enabled := s.port.enabled
  bitCount := s.port.bitCount
  sfrm := s.sfrm
  prescale := s.timebase.prescale
  divider := s.timebase.dividerInUse
  commands := s.captures.count .command
  accReady := ready .readAcc s || ready .writeAcc s
  tableReady c := c.isTable && ready c s

/-- What the laws go by, but for the slots of the channels. -/
def workView (s : State) : Units × Engine × Vector Entry 32 := (units s, s.engine, s.entries)

/-- All that the laws go by. -/
def view (s : State) : (Units × Engine × Vector Entry 32) × (Fin 16 → Option Item) :=
  (workView s, fun c => s.channels[c].slot)

section
variable {s t : State}

theorem Standing.of_units (hs : Standing s) (h : units t = units s) : Standing t := by
  simp only [units, Units.mk.injEq] at h
  obtain ⟨hreception, henabled, hcount, hsfrm, hprescale, hdivider, hcommands, hacc, -⟩ := h
  obtain ⟨hport, htimebase, hcaptures⟩ := hs
  refine ⟨?_, ?_, ?_⟩
  · rw [PortLaw, hreception, henabled, hcount, hsfrm]
    exact hport
  · rw [TimebaseLaw, hprescale, hdivider]
    exact htimebase
  · rw [CaptureLaw, hcommands, hacc]
    exact hcaptures

theorem ready_of_units (h : units t = units s) {c : Command} (hc : c.isTable = true) : ready c t = ready c s := by
  have hready : (c.isTable && ready c t) = (c.isTable && ready c s) := congrFun (congrArg Units.tableReady h) c
  rwa [hc, Bool.true_and, Bool.true_and] at hready

theorem tableWaiting_of_units (h : units t = units s) : tableWaiting t = tableWaiting s := by
  rw [Bool.eq_iff_iff, tableWaiting_iff, tableWaiting_iff]
  refine exists_congr fun c => and_congr_right fun hc => ?_
  rw [Waits, Waits, ← ready_iff, ← ready_iff, ready_of_units h hc]

/-- What the engine's work rests on stands while no claim of an expiry is lost. -/
theorem workLaw_of_claims (h : units t = units s) (he : t.engine = s.engine)
    (hqual : ∀ n : Fin 32, s.entries[n].qualClaim = true → t.entries[n].qualClaim = true)
    (hshape : ∀ n : Fin 32, s.entries[n].shapeClaim = true → t.entries[n].shapeClaim = true) (hs : WorkLaw s) :
    WorkLaw t := by
  obtain ⟨hreleasing, hrestarting, htable, hq, hsh⟩ := hs
  rw [WorkLaw, he, ready_of_units h rfl, ready_of_units h rfl, tableWaiting_of_units h]
  exact ⟨hreleasing, hrestarting, htable, fun n e => hqual n (hq n e), fun n e => hshape n (hsh n e)⟩

theorem workView_eq_iff :
    workView t = workView s ↔ units t = units s ∧ t.engine = s.engine ∧ t.entries = s.entries := by
  simp only [workView, Prod.mk.injEq]

theorem units_of_view (h : view t = view s) : units t = units s := congrArg (·.1.1) h

theorem Standing.of_workView (hs : Standing s) (h : workView t = workView s) : Standing t :=
  hs.of_units (workView_eq_iff.mp h).1

theorem workLaw_of_workView (hs : WorkLaw s) (h : workView t = workView s) : WorkLaw t := by
  obtain ⟨hunits, hengine, hentries⟩ := workView_eq_iff.mp h
  exact workLaw_of_claims hunits hengine (fun n => by rw [hentries]; exact id) (fun n => by rw [hentries]; exact id) hs

theorem Laws.of_view (hs : Laws s) (h : view t = view s) : Laws t := by
  obtain ⟨hwork, hslots⟩ := Prod.mk.inj h
  obtain ⟨hunits, hengine, hentries⟩ := workView_eq_iff.mp hwork
  have hslot (c : Fin 16) : t.channels[c].slot = s.channels[c].slot := congrFun hslots c
  refine ⟨hs.standing.of_units hunits, workLaw_of_workView hs.work hwork, ?_⟩
  simp only [FreeLaw, hengine, hentries, tableWaiting_of_units hunits, hslot]
  exact hs.free

/-- An engine in the middle of a work item that rests on no command. -/
theorem laws_of_busy (hs : Standing t) (hw : WorkLaw t) (he : t.engine ≠ .free) : Laws t :=
  ⟨hs, hw, fun e => absurd e he⟩

/-- The completion of a command that neither the engine nor the capture unit serves. -/
theorem view_complete {c : Command} {r : Result} (h : ready c s = true) (htable : c.isTable = false)
    (hcapture : c.isCapture = false) : view (complete r s) = view s := by
  have hdone (d : Command) : ready d (complete r s) = false := ready_of_not_pending (complete_not_pending r s) d
  have htables (d : Command) : (d.isTable && ready d s) = false := by
    by_cases hd : d = c
    · rw [hd, htable]
      rfl
    · rw [ready_other h hd, Bool.and_false]
  have hunits : units (complete r s) = units s := by
    simp only [units, hdone, htables, accReady_eq_false h hcapture, Bool.and_false, Bool.or_false]
    rfl
  simp only [view, workView, hunits]
  rfl

end

/-! ## Commands of the other blocks -/

section
variable {s : State}

theorem view_serveReadLine (h : ready .readLine s = true) : view (serveReadLine s) = view s := by
  unfold serveReadLine
  split <;> exact view_complete h rfl rfl

theorem view_serveWriteLine (h : ready .writeLine s = true) : view (serveWriteLine s) = view s := by
  unfold serveWriteLine
  dsimp only
  split
  · exact view_complete h rfl rfl
  split
  · exact view_complete h rfl rfl
  · rw [OutputLaws.storeLine_frame]
    exact view_complete h rfl rfl

theorem view_serveSilence (h : ready .silence s = true) : view (serveSilence s) = view s := by
  unfold serveSilence
  split
  · exact view_complete h rfl rfl
  split
  · exact view_complete h rfl rfl
  · rw [updateWant_frame]
    exact view_complete h rfl rfl

theorem view_serveOverride (h : ready .override s = true) : view (serveOverride s) = view s := by
  unfold serveOverride
  split
  · exact view_complete h rfl rfl
  split
  · exact view_complete h rfl rfl
  · rw [updateWant_frame]
    exact view_complete h rfl rfl

theorem view_serveResume (h : ready .resume s = true) : view (serveResume s) = view s := by
  unfold serveResume
  split <;> exact view_complete h rfl rfl

theorem view_modChannel {c : Fin 16} {f : Channel → Channel} (h : (f s.channels[c]).slot = s.channels[c].slot) :
    view (modChannel c f s) = view s :=
  Prod.ext rfl (funext (StoredValues.get_set_of_same (g := Channel.slot) h))

theorem view_serveReadChannel (h : ready .readChannel s = true) : view (serveReadChannel s) = view s := by
  unfold serveReadChannel
  split <;> exact view_complete h rfl rfl

theorem view_serveWriteChannel (h : ready .writeChannel s = true) : view (serveWriteChannel s) = view s := by
  unfold serveWriteChannel
  split
  · exact view_complete h rfl rfl
  next c _ =>
  split
  · exact view_complete h rfl rfl
  next cfg _ =>
  split
  · exact view_complete h rfl rfl
  · exact (view_complete (s := modChannel c (fun ch => { ch with cfg := cfg }) s) h rfl rfl).trans (view_modChannel rfl)

theorem view_serveClearPortCounts (h : ready .clearPortCounts s = true) : view (serveClearPortCounts s) = view s :=
  view_complete (s := modPort Port.countsCleared s) h rfl rfl

variable (s)

theorem view_takeLineCommand : view (takeLineCommand s) = view s := by
  unfold takeLineCommand
  split
  · next h => exact view_serveReadLine h
  split
  · next h => exact view_serveWriteLine h
  split
  · next h => exact view_serveSilence h
  split
  · next h => exact view_serveOverride h
  split
  · next h => exact view_serveResume h
  · rfl

theorem view_takeChannelCommand (c : Fin 16) : view (takeChannelCommand c s) = view s := by
  unfold takeChannelCommand
  split
  · rfl
  split
  · next h => exact view_serveReadChannel h
  split
  · next h => exact view_serveWriteChannel h
  · rfl

theorem view_takePortCommand : view (takePortCommand s) = view s := by
  unfold takePortCommand
  split
  · next h => exact view_serveClearPortCounts h
  · rfl

theorem view_requestIf (b : Bool) (f : Flag) : view (requestIf b f s) = view s := by
  rw [requestIf_eq]
  rfl

theorem view_takeRecord (b : RecordBody) : view (takeRecord b s) = view s := by
  obtain ⟨q, f, h⟩ := takeRecord_frame b s
  rw [h]
  rfl

theorem view_takeWaiting : view (takeWaiting s) = view s := by
  obtain ⟨q, f, h⟩ := takeWaiting_frame s
  rw [h]
  rfl

theorem view_takeOutcome (o : ArrivalOutcome) : view (takeOutcome o s) = view s := by
  cases o <;> rfl

theorem view_assertShutoff : view (assertShutoff s) = view s := by
  rw [PinControl.assertShutoff_frame]
  rfl

theorem view_writeOe (b : Bool) : view (writeOe b s) = view s := by
  unfold writeOe
  split
  · rfl
  · exact view_takeLineCommand s

theorem view_stampTick : view (stampTick s) = view s := by
  unfold stampTick
  split <;> rfl

theorem view_writeStaging (k : Fin 32) (v : Byte) : view (writeStaging k v s) = view s := by
  unfold writeStaging
  dsimp only
  split <;> rfl

theorem view_writeWatermark (v : Byte) : view (writeWatermark v s) = view s := view_requestIf _ _ _

end

/-! ## Claims, and the choice -/

/-- A claim the engine takes next has been raised (R35). -/
theorem nextClaim_raised {s : State} {c : Claim} (h : nextClaim s = some c) :
    (c = .table → tableWaiting s = true)
      ∧ (∀ n : Fin 32, c = .expiry n .qualification → s.entries[n].qualClaim = true)
      ∧ (∀ n : Fin 32, c = .expiry n .shaping → s.entries[n].shapeClaim = true) := by
  unfold nextClaim at h
  split at h
  · next n k hexpiry =>
    cases h
    obtain ⟨hraised, -, hkind⟩ := nextExpiry_eq_some.mp hexpiry
    cases hq : s.entries[n].qualClaim with
    | true =>
      obtain rfl : k = .qualification := by rw [hkind, if_pos hq]
      refine ⟨nofun, ?_, nofun⟩
      rintro m ⟨⟩
      exact hq
    | false =>
      obtain rfl : k = .shaping := by rw [hkind, if_neg (by rw [hq]; nofun)]
      refine ⟨nofun, nofun, ?_⟩
      rintro m ⟨⟩
      rwa [hq, Bool.false_or] at hraised
  · split at h
    · next hwaits =>
      cases h
      exact ⟨fun _ => hwaits, nofun, nofun⟩
    · cases h

/-- No claim waits where the engine finds none (R34 to R36). -/
theorem freeLaw_of_nothing {s : State} (hclaim : nextClaim s = none) (hchannel : nextChannel s = none) : FreeLaw s := by
  intro _
  unfold nextClaim at hclaim
  split at hclaim
  · cases hclaim
  next hexpiry =>
  split at hclaim
  · cases hclaim
  next htable => exact ⟨nextExpiry_eq_none.mp hexpiry, by simpa using htable, nextChannel_eq_none.mp hchannel⟩

/-- The choice of a free engine leaves it free only where no claim waits (R34, R35). -/
theorem chooseWork_laws {s : State} (hs : Standing s) (hw : WorkLaw s) : Laws (chooseWork s) := by
  rcases chooseWork_cases s with ⟨hbusy, h⟩ | ⟨-, hclaim, hchannel, h⟩ | ⟨c, -, hclaim, h⟩ |
    ⟨c, item, -, -, -, -, h⟩ <;> rw [h]
  · exact laws_of_busy hs hw hbusy
  · exact ⟨hs, hw, freeLaw_of_nothing hclaim hchannel⟩
  · obtain ⟨htable, hqual, hshape⟩ := nextClaim_raised hclaim
    exact laws_of_busy (hs.of_units rfl)
      ⟨nofun, nofun, fun e => htable (Engine.taken.inj e), fun n e => hqual n (Engine.taken.inj e),
        fun n e => hshape n (Engine.taken.inj e)⟩ nofun
  · have htaken : units (takeChannelCommand c s) = units s := units_of_view (view_takeChannelCommand s c)
    exact laws_of_busy (hs.of_units htaken)
      ⟨nofun, nofun, nofun, nofun, nofun⟩ nofun

/-- The choice behind an event that may have filled a slot, and moved nothing else the laws go by. -/
theorem chooseWork_laws_of_workView {s t : State} (hs : Laws s) (h : workView t = workView s) : Laws (chooseWork t) :=
  chooseWork_laws (hs.standing.of_workView h) (workLaw_of_workView hs.work h)

/-- The end of a work item (R34). -/
theorem comeFree_laws {s : State} (hs : Standing s) : Laws (comeFree s) :=
  chooseWork_laws (hs.of_units rfl) ⟨nofun, nofun, nofun, nofun, nofun⟩

/-- The end of a table command (R39, R168): no command waits for the capture unit, before or behind it. -/
theorem endService_laws {c : Command} {s : State} (hs : Standing s) (h : ready c s = true) (hc : c.isTable = true)
    (r : Result) : Laws (endService r s) := by
  have hnone := (captureLaw_of_idle (accReady_eq_false h (isCapture_of_isTable hc))).mp hs.captures
  have hafter : Standing (complete r s) := ⟨hs.port, hs.timebase, (captureLaw_complete r).mpr hnone⟩
  exact comeFree_laws hafter

/-! ## The sample port -/

section
variable {s : State}

/-- An event of the port that leaves it lawful. -/
theorem laws_of_port {p : Port} {level : Bool} (hs : Laws s) (h : PortLaw { s with sfrm := level, port := p }) :
    Laws { s with sfrm := level, port := p } :=
  ⟨⟨h, hs.standing.timebase, hs.standing.captures⟩, hs.work, hs.free⟩

/-- A port that has left DISABLED is enabled (R143). -/
theorem enabled_of_reception (h : PortLaw s) (hne : s.port.reception ≠ .disabled) : s.port.enabled ≠ false :=
  fun e => hne (h.1.mpr e)

theorem frameStart_portLaw (h : PortLaw s) : PortLaw { s with sfrm := true, port := s.port.frameStart } := by
  have hreception : s.port.frameStart.reception ≠ .idle ∧
      (s.port.frameStart.reception = .disabled ↔ s.port.reception = .disabled) := by
    unfold Port.frameStart
    cases hrec : s.port.reception <;> simp [hrec]
  have hrest : s.port.frameStart.enabled = s.port.enabled ∧ s.port.frameStart.bitCount ≤ 25 := by
    unfold Port.frameStart
    split
    · exact ⟨rfl, Nat.zero_le _⟩
    all_goals exact ⟨rfl, h.2.2.2⟩
  exact ⟨hreception.2.trans (by rw [hrest.1]; exact h.1), fun _ => rfl, fun e => absurd e hreception.1, hrest.2⟩

theorem sclk_portLaw (h : PortLaw s) (b : Bool) : PortLaw { s with port := s.port.sclk b } := by
  obtain ⟨hdisabled, hhigh, hlow, hcount⟩ := h
  unfold Port.sclk
  split
  · next hrec =>
    have hrest (r : BitVec 24) (n : Nat) (hn : n ≤ 25) :
        PortLaw { s with port := { s.port with shiftReg := r, bitCount := n } } := ⟨hdisabled, hhigh, hlow, hn⟩
    split
    · exact hrest _ _ (by omega)
    · exact hrest s.port.shiftReg 25 (Nat.le_refl 25)
  all_goals exact ⟨hdisabled, hhigh, hlow, hcount⟩

/-- The port back in IDLE, with SFRM low. -/
theorem idle_portLaw {p : Port} (h : PortLaw s) (hne : s.port.reception ≠ .disabled) (hp : p.reception = .idle)
    (he : p.enabled = s.port.enabled) (hn : p.bitCount = s.port.bitCount) :
    PortLaw { s with sfrm := false, port := p } := by
  refine ⟨iff_of_false (by rw [hp]; nofun) (by rw [he]; exact enabled_of_reception h hne), ?_, fun _ => rfl, ?_⟩
  · rw [hp]
    rintro (e | e) <;> cases e
  · rw [hn]
    exact h.2.2.2

theorem endFrame_laws (hs : Laws s) : Laws (endFrame { s with sfrm := false }) := by
  have hport := hs.standing.port
  unfold endFrame
  split
  · next hrec =>
    have hne : s.port.reception ≠ .disabled := by rw [hrec]; nofun
    have hchecked : Laws { s with sfrm := false, port := s.port.checked } :=
      laws_of_port hs (idle_portLaw hport hne rfl rfl rfl)
    exact hchecked.of_view (view_requestIf _ _ _)
  · next hrec =>
    have hne : s.port.reception ≠ .disabled := by rw [hrec]; nofun
    exact laws_of_port (s := s) hs (idle_portLaw hport hne rfl rfl rfl)
  · next hrec =>
    refine laws_of_port (s := s) hs ⟨hport.1, ?_, fun _ => rfl, hport.2.2.2⟩
    rw [hrec]
    rintro (e | e) <;> cases e
  · next hrec =>
    refine laws_of_port (s := s) hs ⟨hport.1, ?_, fun _ => rfl, hport.2.2.2⟩
    rw [hrec]
    rintro (e | e) <;> cases e

/-- PORT_EN (R151): WAIT_LOW where SFRM is high, IDLE where it is low. -/
theorem enable_portLaw (h : PortLaw s) (b : Bool) : PortLaw { s with port := s.port.enable b s.sfrm } := by
  cases b with
  | false => exact ⟨iff_of_true rfl rfl, fun e => e.elim nofun nofun, nofun, Nat.zero_le _⟩
  | true =>
    have hcount : s.port.bitCount ≤ 25 := h.2.2.2
    cases hf : s.sfrm with
    | false => exact ⟨iff_of_false nofun nofun, fun e => e.elim nofun nofun, fun _ => rfl, hcount⟩
    | true => exact ⟨iff_of_false nofun nofun, fun _ => rfl, nofun, hcount⟩

/-- RESTART (R154): a reception becomes a wait for a low SFRM. -/
theorem restarted_portLaw (h : PortLaw s) : PortLaw { s with port := s.port.restarted } := by
  unfold Port.restarted
  dsimp only
  split
  · next hrec =>
    have hreceiving : s.port.reception = .receiving := hrec
    have hne : s.port.reception ≠ .disabled := by rw [hreceiving]; nofun
    exact ⟨iff_of_false nofun (enabled_of_reception (s := s) h hne), fun _ => h.2.1 (.inl hreceiving), nofun,
      Nat.zero_le _⟩
  all_goals exact h

theorem writePortEnable_laws (hs : Laws s) (b : Bool) : Laws (writePortEnable b s) := by
  have htaken := hs.of_view (view_takePortCommand s)
  have hlevel : (takePortCommand s).sfrm = s.sfrm :=
    congrArg Units.sfrm (units_of_view (view_takePortCommand s))
  unfold writePortEnable
  split
  · exact hs
  · rw [← hlevel]
    exact laws_of_port htaken (enable_portLaw htaken.standing.port b)

theorem writeControl_laws (hs : Laws s) (v : Byte) : Laws (writeControl v s) :=
  writePortEnable_laws (hs.of_view (view_writeOe s _)) _

end

/-! ## Ticks -/

section
variable {s : State}

/-- The timebase moves within its law. -/
theorem laws_of_timebase {u : Timebase} {d : DueTicks} (hs : Laws s)
    (h : u.prescale < (u.dividerInUse.toNat + 1) * 64) : Laws { s with timebase := u, due := d } :=
  ⟨⟨hs.standing.port, h, hs.standing.captures⟩, hs.work, hs.free⟩

theorem endInterval_laws (hs : Laws s) : Laws (endInterval s) := by
  have hfirst : 0 < (s.timebase.tbdiv.toNat + 1) * 64 := by omega
  unfold endInterval
  split
  · exact hs
  · exact laws_of_timebase hs hfirst

/-- A tick loses no claim: an expired timer stays expired (R41). -/
theorem tick_claims {e : Entry} : (e.qualClaim = true → e.tick.qualClaim = true)
    ∧ (e.shapeClaim = true → e.tick.shapeClaim = true) := by
  have hstays {t : Timer} (h : t = .expired) : t.tick = .expired := by
    rw [h]
    rfl
  rw [qualClaim_iff, qualClaim_iff, shapeClaim_iff, shapeClaim_iff]
  exact ⟨Or.imp_left hstays, Or.imp_left hstays⟩

theorem bankTick_laws (hs : Laws s) : Laws (bankTick s) := by
  have hunits : units (bankTimers s) = units s := by simp only [units, bankTimers, ready]
  have hengine : (bankTimers s).engine = s.engine := TickOrder.bankTimers_engine s
  have hwork : WorkLaw (bankTimers s) := by
    refine workLaw_of_claims hunits hengine (fun n => ?_) (fun n => ?_) hs.work <;> rw [WatchTable.bankTimers_entry]
    · exact tick_claims.1
    · exact tick_claims.2
  rcases bankTick_cases s with ⟨-, h⟩ | ⟨-, h⟩ <;> rw [h]
  · exact hs
  · exact chooseWork_laws (hs.standing.of_units hunits) hwork

variable (s)

theorem workView_channelTick (c : Fin 16) : workView (channelTick c s) = workView s := by
  rcases channelTick_cases c s with ⟨-, h⟩ | ⟨-, -, h⟩ | ⟨-, -, h⟩ <;> rw [h]
  · rw [freshnessExpiry_frame]
    exact congrArg Prod.fst (view_takeChannelCommand _ c)
  · rfl

theorem workView_takeArrival (fromPort : Bool) (c : Fin 16) (raw : Half) (status : SampleStatus) :
    workView (takeArrival fromPort c raw status s).2 = workView s := by
  rw [SampleIntake.takeArrival_eq]
  exact congrArg Prod.fst (view_takeChannelCommand s c)

theorem workView_tickedChannels : workView (Ticks.tickedChannels s) = workView s := by
  have fold : ∀ (cs : List (Fin 16)) (u : State), workView (cs.foldl (fun u c => channelTick c u) u) = workView u := by
    intro cs
    induction cs with
    | nil => exact fun _ => rfl
    | cons c cs ih => exact fun u => (ih _).trans (workView_channelTick u c)
  unfold Ticks.tickedChannels
  exact fold (List.finRange 16) s

variable {s}

theorem channelTicks_laws (hs : Laws s) : Laws (channelTicks s) := by
  rw [Ticks.channelTicks_eq_choice]
  exact chooseWork_laws_of_workView hs (workView_tickedChannels s)

theorem tick_laws (hs : Laws s) : Laws (tick s) :=
  channelTicks_laws (bankTick_laws ((endInterval_laws hs).of_view (view_stampTick _)))

/-- A CLKIN period (R156): the count goes up where that does not end the interval. -/
theorem clkin_laws (hs : Laws s) : Laws (clkin s) := by
  unfold clkin
  split
  · exact hs
  split
  · exact tick_laws hs
  · next h => exact laws_of_timebase hs (Nat.not_le.mp h)

end

/-! ## Work on one entry -/

section
variable (n : Fin 32) (s : State)

theorem units_setContrib (l : Fin 16) (b : Bool) : units (setContrib l n b s) = units s := by
  rw [setContrib_frame]
  rfl

theorem units_contributionStep (dir : Direction) : units (contributionStep n dir s) = units s := by
  rw [contributionStep_eq]
  have hreached : units (reached n (some dir) s) = units s := by
    unfold reached
    split
    · rw [lineTaken_eq]
      exact units_of_view (view_takeLineCommand s)
    · rfl
  rw [← hreached]
  unfold contribute
  split
  · rfl
  · rw [setContribIf_frame]
    rfl

/-- A capture step is no command (R110). -/
theorem units_captureHandOver (g : Edge) : units (captureHandOver n g s) = units s := by
  unfold captureHandOver
  dsimp only
  split
  · rfl
  split
  · have hcount (st : CaptureStep) :
        (s.captures ++ [CaptureEvent.step st]).count .command = s.captures.count .command := by
      rw [List.count_append, List.count_singleton]
      rfl
    simp only [units, hcount]
    rfl
  · rfl

theorem units_moveWithEdge (st : EntryState) (g : Edge) : units (moveWithEdge n st g s) = units s := by
  rw [moveWithEdge, edge, recordStep_frame]
  exact (units_captureHandOver n _ g).trans (units_contributionStep n _ g.dir)

theorem units_transition (active : Bool) (v : Option Half) : units (transition n active v s) = units s := by
  rw [transition_eq]
  split
  · rfl
  · exact units_moveWithEdge n s _ _

theorem units_handleEntry (input : EvalInput) : units (handleEntry n input s) = units s := by
  have hinput (limit : Half) (active : Bool) (v : Option Half) : units (handleInput n limit active v s) = units s :=
    units_transition n _ active v
  cases input with
  | good v => exact hinput _ _ _
  | fault =>
    rw [handleEntry]
    by_cases hheld : s.entries[n].state = .inhibited ∨ s.entries[n].cfg.faultPolicy = .hold
    · rw [handleFault_of_held hheld]
      rfl
    obtain ⟨hinhibited, hhold⟩ := not_or.mp hheld
    obtain ⟨htrip, hclear⟩ := handleFault_of_policy hinhibited
    cases hp : s.entries[n].cfg.faultPolicy with
    | hold => exact absurd hp hhold
    | trip => exact htrip hp ▸ hinput _ _ _
    | clear => exact hclear hp ▸ hinput _ _ _

theorem units_serveQualification : units (serveQualification n s) = units s := by
  unfold serveQualification
  split
  · rfl
  split
  · unfold qualificationExpiry
    dsimp only
    split
    · exact units_moveWithEdge n _ _ _
    · exact units_moveWithEdge n _ _ _
    all_goals rfl
  · rfl

theorem units_serveShaping : units (serveShaping n s) = units s := by
  have htaken : units (takeLineCommand s) = units s := units_of_view (view_takeLineCommand s)
  have hbehind (l : Fin 16) (b : Bool) (f : Entry → Entry) :
      units (setContrib l n b (modEntry n f (takeLineCommand s))) = units s :=
    (units_setContrib n _ l b).trans htaken
  unfold serveShaping
  split
  · rfl
  split
  · unfold shapingExpiry
    dsimp only
    split
    · exact hbehind _ _ _
    · exact hbehind _ _ _
    · rfl
  · rfl

theorem units_releaseEntry : units (releaseEntry n s) = units s := units_moveWithEdge n s _ _

theorem units_withdraw : units (withdraw n s) = units s := by
  unfold withdraw
  dsimp only
  split
  · exact units_setContrib n _ _ _
  · rfl

end

/-! ## Work items -/

section
variable {s : State} (hs : Laws s)
include hs

theorem settleTaken_laws (c : Fin 16) (item : Item) : Laws (settleTaken c item s) := by
  have htaken : units (takeChannelCommand c s) = units s := units_of_view (view_takeChannelCommand s c)
  have hunits : units (settle c item (takeChannelCommand c s)).2 = units s := by
    rw [settle_work c item _]
    exact htaken
  exact laws_of_busy (hs.standing.of_units hunits) ⟨nofun, nofun, nofun, nofun, nofun⟩ nofun

theorem evaluationStep_laws : Laws (evaluationStep s) := by
  unfold evaluationStep
  split
  · exact settleTaken_laws hs _ _
  · split
    · exact comeFree_laws hs.standing
    · next n _ =>
      exact laws_of_busy (hs.standing.of_units (units_handleEntry n s _)) ⟨nofun, nofun, nofun, nofun, nofun⟩
        nofun
  all_goals exact hs

omit hs in
theorem evaluationRest_laws (fuel : Nat) {s : State} (hs : Laws s) : Laws (evaluationRest fuel s) := by
  induction fuel generalizing s with
  | zero => exact hs
  | succ fuel ih =>
    unfold evaluationRest
    split
    · exact ih (evaluationStep_laws hs)
    all_goals exact hs

theorem evaluationFinish_laws : Laws (evaluationFinish s) := by
  unfold evaluationFinish
  split
  · exact evaluationRest_laws _ (settleTaken_laws hs _ _)
  · exact evaluationRest_laws _ hs
  all_goals exact hs

theorem handleQualification_laws (n : Fin 32) : Laws (handleQualification n s) := by
  have hserved := hs.standing.of_units (units_serveQualification n s)
  unfold handleQualification
  dsimp only
  split
  · exact laws_of_busy (hserved.of_units rfl) ⟨nofun, nofun, nofun, nofun, nofun⟩ nofun
  · exact comeFree_laws hserved

/-- RELEASE_ALL is PENDING until its last event (R56). -/
theorem releaseAllFrom_laws (k count : Nat) (h : ready .releaseAll s = true) : Laws (releaseAllFrom k count s) := by
  unfold releaseAllFrom
  split
  · next n _ =>
    have hunits := units_releaseEntry n s
    have hready : ready .releaseAll (releaseEntry n s) = true := (ready_of_units hunits rfl).trans h
    exact laws_of_busy (hs.standing.of_units hunits) ⟨fun _ _ _ => hready, nofun, nofun, nofun, nofun⟩ nofun
  · have hcounted : Standing { s with cmd := { s.cmd with arg0 := BitVec.ofNat 8 count } } := hs.standing.of_units rfl
    have hready : ready .releaseAll { s with cmd := { s.cmd with arg0 := BitVec.ofNat 8 count } } = true := h
    exact endService_laws hcounted hready rfl _

theorem releaseAllStep_laws : Laws (releaseAllStep s) := by
  unfold releaseAllStep
  split
  · split
    · next h => exact releaseAllFrom_laws hs _ _ h
    · exact hs
  · next k count he => exact releaseAllFrom_laws hs _ _ (hs.work.1 k count he)
  all_goals exact hs

omit hs in
theorem releaseAllRest_laws (fuel : Nat) {s : State} (hs : Laws s) : Laws (releaseAllRest fuel s) := by
  induction fuel generalizing s with
  | zero => exact hs
  | succ fuel ih =>
    unfold releaseAllRest
    split
    · exact ih (releaseAllStep_laws hs)
    all_goals exact hs

/-- An engine in the middle of a RESTART that is PENDING (R172). -/
theorem restarting_laws {t : State} (h : units t = units s) (hready : ready .restart s = true)
    (out ch port irq rec : Bool) : Laws { t with engine := .restarting out ch port irq rec } := by
  have hstill : ready .restart t = true := (ready_of_units h rfl).trans hready
  exact laws_of_busy ((hs.standing.of_units h).of_units rfl)
    ⟨nofun, fun _ _ _ _ _ _ => hstill, nofun, nofun, nofun⟩ nofun

theorem restartPart_laws (p : RestartPart) : Laws (restartPart p s) := by
  rcases restartPart_cases p s with h | ⟨-, -, hready, h⟩ | ⟨out, ch, port, irq, rec, he, hpart⟩
  · rw [h]
    exact hs
  · rw [h, restartEngine]
    exact restarting_laws (t := { s with entries := _, pointer := 15 }) hs rfl hready _ _ _ _ _
  have hready : ready .restart s = true := hs.work.2.1 out ch port irq rec he
  rcases hpart with ⟨-, -, h⟩ | ⟨-, -, h⟩ | ⟨-, -, h⟩ | ⟨-, -, -, -, -, h⟩ | ⟨-, -, -, -, -, -, h⟩ |
    ⟨-, -, -, -, -, -, h⟩ <;> rw [h]
  · exact restarting_laws (t := restartOutputs s) hs rfl hready _ _ _ _ _
  · exact restarting_laws (t := restartChannels s) hs rfl hready _ _ _ _ _
  · have hported : Laws { s with port := s.port.restarted } := laws_of_port hs (restarted_portLaw hs.standing.port)
    exact restarting_laws (t := modPort Port.restarted s) hported rfl hready _ _ _ _ _
  · exact restarting_laws (t := restartInterrupts s) hs rfl hready _ _ _ _ _
  · have hqueue : view (restartQueue s) = view s := (view_takeRecord _ _).trans (view_takeWaiting s)
    exact restarting_laws hs (units_of_view hqueue) hready _ _ _ _ _
  · exact endService_laws hs.standing hready rfl _

theorem restartAll_laws : Laws (restartAll s) := by
  have fold : ∀ (ps : List RestartPart) (u : State), Laws u → Laws (ps.foldl (fun s p => restartPart p s) u) := by
    intro ps
    induction ps with
    | nil => exact fun _ => id
    | cons p ps ih => exact fun u hu => ih _ (restartPart_laws hu p)
  exact fold _ s hs

/-! ## Host cycles -/

/-- Where no command is PENDING the engine's work rests on none, and so does not feel a new one (R167). -/
theorem workLaw_of_newCommand {t : State} (hidle : s.cmd.state ≠ .pending) (he : t.engine = s.engine)
    (hentries : t.entries = s.entries) : WorkLaw t := by
  obtain ⟨hreleasing, hrestarting, htable, hqual, hshape⟩ := hs.work
  have hnone {c : Command} {P : Prop} (h : ready c s = true) : P :=
    absurd (h.symm.trans (ready_of_not_pending hidle c)) nofun
  rw [WorkLaw, he, hentries]
  refine ⟨fun k count e => hnone (hreleasing k count e),
    fun out ch port irq rec e => hnone (hrestarting out ch port irq rec e), fun e => ?_, hqual, hshape⟩
  exact absurd ((htable e).symm.trans (tableWaiting_of_not_pending hidle)) nofun

/-- A CMD_OP write that is taken (R167): the command is with its owner, and with the capture unit if that serves it. -/
theorem handToOwner_laws (hidle : s.cmd.state ≠ .pending) (c : Command) :
    Laws (handToOwner c (takeCommand (encodeOpcode c) s)) := by
  obtain ⟨hport, htimebase, hcaptures⟩ := hs.standing
  have hready : ready c (takeCommand (encodeOpcode c) s) = true := ready_iff.mpr ⟨rfl, rfl⟩
  have hnone : s.captures.count .command = 0 := (captureLaw_of_idle (accReady_of_not_pending hidle)).mp hcaptures
  have hwork : WorkLaw (takeCommand (encodeOpcode c) s) := workLaw_of_newCommand hs hidle rfl rfl
  have hfree (hc : c.isTable = false) : FreeLaw (takeCommand (encodeOpcode c) s) := fun he => by
    obtain ⟨hclaims, -, hslots⟩ := hs.free he
    exact ⟨hclaims, (tableWaiting_of_ready hready).trans hc, hslots⟩
  have hstanding (hc : c.isCapture = false) : Standing (takeCommand (encodeOpcode c) s) :=
    ⟨hport, htimebase, (captureLaw_of_idle (accReady_eq_false hready hc)).mpr hnone⟩
  unfold handToOwner
  split
  · next htable => exact chooseWork_laws (hstanding (isCapture_of_isTable htable)) hwork
  next htable =>
  replace htable : c.isTable = false := by simpa using htable
  split
  · next hcapture =>
    have hone : (s.captures ++ [CaptureEvent.command]).count .command = 1 := by
      rw [List.count_append, hnone]
      rfl
    exact ⟨⟨hport, htimebase, hone.trans (if_pos (accReady_of_ready hready hcapture)).symm⟩, hwork, hfree htable⟩
  · next hcapture => exact ⟨hstanding (by simpa using hcapture), hwork, hfree htable⟩

/-- A command that completes as soon as it is taken (R170). -/
theorem badOpcode_laws (hidle : s.cmd.state ≠ .pending) (op : Byte) (r : Result) :
    Laws (complete r (takeCommand op s)) := by
  obtain ⟨hport, htimebase, hcaptures⟩ := hs.standing
  have hnone := (captureLaw_of_idle (accReady_of_not_pending hidle)).mp hcaptures
  refine ⟨⟨hport, htimebase, (captureLaw_complete _).mpr hnone⟩,
    workLaw_of_newCommand hs hidle rfl rfl, fun he => ?_⟩
  obtain ⟨hclaims, -, hslots⟩ := hs.free he
  exact ⟨hclaims, tableWaiting_of_not_pending (complete_not_pending _ _), hslots⟩

theorem writeCmdOp_laws (op : Byte) : Laws (writeCmdOp op s) := by
  unfold writeCmdOp
  split
  · exact hs.of_view rfl
  next hidle =>
  replace hidle : s.cmd.state ≠ .pending := by simpa using hidle
  split
  · next c hc =>
    rw [encodeOpcode_of_decode hc]
    exact handToOwner_laws hs hidle c
  · exact badOpcode_laws hs hidle op _

theorem writeInjTag_laws (v : Byte) : Laws (writeInjTag v s) := by
  have harrival := workView_takeArrival s false (tagChannel v) s.inj.value (tagStatus v)
  unfold writeInjTag
  generalize takeArrival false (tagChannel v) s.inj.value (tagStatus v) s = r at harrival
  exact chooseWork_laws_of_workView (t := { r.2 with inj := _ }) hs harrival

theorem writeWindow_laws (a : Address) (v : Byte) : Laws (writeWindow a v s) := by
  unfold writeWindow
  split
  · exact hs.of_view (view_writeStaging s _ v)
  split
  case h_1 => exact writeControl_laws hs v
  case h_4 => exact writeCmdOp_laws hs v
  case h_7 => exact hs.of_view (view_writeWatermark s v)
  case h_10 => exact writeInjTag_laws hs v
  all_goals exact hs.of_view rfl

end

/-! ## Commands -/

/-- An outcome that, where it is a next state, meets the laws. -/
def Lawful (o : Host.Outcome State Fault Refusal) : Prop :=
  ∀ t : State, o = .next t → Laws t

theorem lawful_next {t : State} (h : Laws t) : Lawful (.next t) := by
  rintro u ⟨⟩
  exact h

/-- In power-on reset the port is DISABLED, whatever the level of SFRM (R155, R177). -/
theorem sfrm_laws_inReset {s : State} (hs : Laws s) (hr : s.inReset = true) (hreset : ResetLaw s) (level : Bool) :
    Laws { s with sfrm := level } := by
  have hport : s.port.reception = .disabled := by
    rw [hreset hr]
    rfl
  refine laws_of_port (p := s.port) hs ⟨hs.standing.port.1, ?_, ?_, hs.standing.port.2.2.2⟩
  · rw [hport]
    rintro (e | e) <;> cases e
  · rw [hport]
    nofun

section
variable {s : State} (hs : Laws s)
include hs

/-- A command that is served where it waits, and does nothing where it does not. -/
theorem lawful_ite {t : State} {b : Bool} (h : b = true → Laws t) : Lawful (.next (if b then t else s)) := by
  cases b
  · exact lawful_next hs
  · exact lawful_next (h rfl)

theorem lawful_view {t : State} (h : view t = view s) : Lawful (.next t) := lawful_next (hs.of_view h)

theorem lawful_view_ite {t : State} {b : Bool} (h : b = true → view t = view s) :
    Lawful (.next (if b then t else s)) :=
  lawful_ite hs fun hb => hs.of_view (h hb)

theorem lawful_hostWrite {f : State → State} (hf : ∀ u : State, Laws u → Laws (f u)) :
    Lawful (.next (hostWrite f s)) := by
  have hfloat : Laws { s with dataOut := none } := hs.of_view rfl
  refine lawful_next ?_
  rw [hostWrite_eq]
  split
  · exact hs
  · exact hf _ hfloat

theorem lawful_hostWrite_view {f : State → State} (hf : ∀ u : State, view (f u) = view u) :
    Lawful (.next (hostWrite f s)) :=
  lawful_hostWrite hs fun u hu => hu.of_view (hf u)

theorem lawful_hostRead {f : State → State} {b : Byte} (hf : ∀ u : State, view (f u) = view u) :
    Lawful (.next (hostRead b f s)) := by
  refine lawful_next ?_
  rw [hostRead_eq]
  split
  · exact hs
  · exact hs.of_view (hf s)

/-- A table command that the engine serves ends its work item with it (R39). -/
theorem lawful_endService {c : Command} {t : State} {r : Result} (h : tableReady c s = true) (hc : c.isTable = true)
    (ht : units t = units s) : Lawful (.next (endService r t)) := by
  have hready : ready c s = true := ready_iff.mpr (tableReady_iff.mp h).2
  exact lawful_next
    (endService_laws (hs.standing.of_units ht) ((ready_of_units ht hc).trans hready) hc r)

theorem execReadEntry_lawful : Lawful (execReadEntry s) := by
  unfold execReadEntry
  split
  · next h => split <;> exact lawful_endService hs h rfl rfl
  · exact lawful_next hs

theorem execWriteEntry_lawful : Lawful (execWriteEntry s) := by
  unfold execWriteEntry
  split
  · next h =>
    split
    · exact lawful_endService hs h rfl rfl
    split
    · exact lawful_endService hs h rfl rfl
    split <;> exact lawful_endService hs h rfl rfl
  · exact lawful_next hs

theorem execArm_lawful : Lawful (execArm s) := by
  unfold execArm
  split
  · next h =>
    split
    · exact lawful_endService hs h rfl rfl
    dsimp only
    split
    · exact lawful_endService hs h rfl rfl
    split <;> exact lawful_endService hs h rfl rfl
  · exact lawful_next hs

theorem execDisarm_lawful : Lawful (execDisarm s) := by
  unfold execDisarm
  split
  · next h =>
    split
    · exact lawful_endService hs h rfl rfl
    split
    · exact lawful_endService hs h rfl rfl
    · exact lawful_endService hs h rfl (units_withdraw _ _)
  · exact lawful_next hs

theorem execRelease_lawful : Lawful (execRelease s) := by
  unfold execRelease
  split
  · next h =>
    split
    · exact lawful_endService hs h rfl rfl
    split
    case h_2 => exact lawful_endService hs h rfl (units_releaseEntry _ s)
    all_goals exact lawful_endService hs h rfl rfl
  · exact lawful_next hs

theorem execReleaseAll_lawful (x : Extent) : Lawful (execReleaseAll x s) := by
  cases x with
  | advance => exact lawful_next (releaseAllStep_laws hs)
  | finish => exact lawful_next (releaseAllRest_laws 32 (releaseAllStep_laws hs))

theorem execEnable_lawful : Lawful (execEnable s) := by
  unfold execEnable
  split
  · next h =>
    split
    · exact lawful_endService hs h rfl rfl
    split <;> exact lawful_endService hs h rfl rfl
  · exact lawful_next hs

theorem execDisable_lawful : Lawful (execDisable s) := by
  unfold execDisable
  split
  · next h =>
    split
    · exact lawful_endService hs h rfl rfl
    split
    · exact lawful_endService hs h rfl rfl
    split <;> exact lawful_endService hs h rfl rfl
  · exact lawful_next hs

theorem execRestart_lawful (x : RestartExtent) : Lawful (execRestart x s) := by
  cases x with
  | finish => exact lawful_next (restartAll_laws hs)
  | part p => exact lawful_next (restartPart_laws hs p)

theorem execEvaluation_lawful (x : Extent) : Lawful (execEvaluation x s) := by
  cases x with
  | advance => exact lawful_next (evaluationStep_laws hs)
  | finish => exact lawful_next (evaluationFinish_laws hs)

theorem execQualificationExpiryTaken_lawful : Lawful (execQualificationExpiryTaken s) := by
  unfold execQualificationExpiryTaken
  split
  · exact lawful_next (handleQualification_laws hs _)
  · exact lawful_next (comeFree_laws hs.standing)
  all_goals exact lawful_next hs

theorem execShapingExpiryTaken_lawful : Lawful (execShapingExpiryTaken s) := by
  unfold execShapingExpiryTaken
  split
  · next n _ => exact lawful_next (comeFree_laws (hs.standing.of_units (units_serveShaping n s)))
  all_goals exact lawful_next hs

theorem execTickBy_lawful (x : TickExtent) : Lawful (execTickBy x s) := by
  cases x with
  | whole => exact lawful_next (tick_laws hs)
  | interval => exact lawful_next (endInterval_laws hs)
  | timestamp => exact lawful_view hs (view_stampTick s)
  | timerBank => exact lawful_next (bankTick_laws hs)
  | channelUnit => exact lawful_next (channelTicks_laws hs)

theorem execPop_lawful : Lawful (execPop s) := by
  unfold execPop
  split
  · next h => split <;> exact lawful_view hs (view_complete h rfl rfl)
  · exact lawful_next hs

theorem execFlush_lawful : Lawful (execFlush s) := by
  unfold execFlush
  split
  · next h => exact lawful_view hs (view_complete (c := .flush) h rfl rfl)
  · exact lawful_next hs

/-- READ_ACC or WRITE_ACC is taken from the list of the capture unit and completes (R110, R115, R116). -/
theorem accCommand_laws {c : Command} {r : Result} {rest : List CaptureEvent} {accs : Vector Word 8}
    {staging : Vector Byte 32} (hc : c.isCapture = true) (h : ready c s = true)
    (hfront : s.captures = .command :: rest) :
    Laws (complete r { s with captures := rest, accs := accs, staging := staging }) := by
  obtain ⟨⟨hport, htimebase, hcaptures⟩, ⟨hreleasing, hrestarting, htable, hqual, hshape⟩, hfree⟩ := hs
  have hother {d : Command} {P : Prop} (hd : d.isTable = true) (hr : ready d s = true) : P := by
    refine absurd (hr.symm.trans (ready_other h ?_)) nofun
    rintro rfl
    exact absurd (hc.symm.trans (isCapture_of_isTable hd)) nofun
  have hnone : rest.count .command = 0 := by
    rw [CaptureLaw, accReady_of_ready h hc, hfront, List.count_cons_self] at hcaptures
    exact Nat.succ.inj hcaptures
  refine ⟨⟨hport, htimebase, (captureLaw_complete _).mpr hnone⟩,
    ⟨fun k count e => hother rfl (hreleasing k count e),
      fun out ch port irq rec e => hother rfl (hrestarting out ch port irq rec e),
      fun e => ?_, hqual, hshape⟩, fun he => ?_⟩
  · obtain ⟨d, hd, hwaits⟩ := tableWaiting_iff.mp (htable e)
    exact hother hd (ready_iff.mpr hwaits)
  · obtain ⟨hclaims, -, hslots⟩ := hfree he
    exact ⟨hclaims, tableWaiting_of_not_pending (complete_not_pending _ _), hslots⟩

theorem execReadAcc_lawful : Lawful (execReadAcc s) := by
  unfold execReadAcc
  split
  · exact lawful_next hs
  · next h =>
    obtain ⟨hready, rest, hfront, rfl⟩ := takeAccCommand_eq_some.mp h
    split <;> exact lawful_next (accCommand_laws hs rfl hready hfront)

theorem execWriteAcc_lawful : Lawful (execWriteAcc s) := by
  unfold execWriteAcc
  split
  · exact lawful_next hs
  · next h =>
    obtain ⟨hready, rest, hfront, rfl⟩ := takeAccCommand_eq_some.mp h
    split <;> exact lawful_next (accCommand_laws hs rfl hready hfront)

/-- A capture step taken is no command taken (R110). -/
theorem execCaptureStep_lawful : Lawful (execCaptureStep s) := by
  unfold execCaptureStep
  split
  · next st rest hfront =>
    have hcount : rest.count .command = s.captures.count .command := by
      rw [hfront]
      rfl
    exact lawful_next ⟨⟨hs.standing.port, hs.standing.timebase, hcount.trans hs.standing.captures⟩, hs.work, hs.free⟩
  all_goals exact lawful_next hs

theorem execFreshnessExpiry_lawful (c : Fin 16) : Lawful (execFreshnessExpiry c s) :=
  lawful_ite hs fun _ => chooseWork_laws_of_workView hs (workView_channelTick s c)

theorem execArrival_lawful : Lawful (execArrival s) := by
  unfold execArrival
  split
  · exact lawful_next hs
  · next a rest _ =>
    have harrival := workView_takeArrival { s with port := { s.port with delivered := rest } } true a.channel a.raw
      a.status
    dsimp only
    generalize takeArrival true a.channel a.raw a.status _ = r at harrival
    exact lawful_next
      (chooseWork_laws_of_workView (t := { r.2 with port := { r.2.port with outcomes := _ } }) hs harrival)

theorem execArrivalOutcome_lawful : Lawful (execArrivalOutcome s) := by
  unfold execArrivalOutcome
  split
  · exact lawful_next hs
  · exact lawful_view hs ((view_takeOutcome _ _).trans (view_takePortCommand s))

theorem execFrameStart_lawful (hreset : ResetLaw s) : Lawful (execFrameStart s) := by
  unfold execFrameStart
  split
  · exact lawful_next hs
  split
  · next hr => exact lawful_next (sfrm_laws_inReset hs hr hreset _)
  · have htaken := hs.of_view (view_takePortCommand s)
    exact lawful_next (laws_of_port (s := takePortCommand s) htaken (frameStart_portLaw htaken.standing.port))

theorem execFrameEnd_lawful (hreset : ResetLaw s) : Lawful (execFrameEnd s) := by
  unfold execFrameEnd
  split
  · exact lawful_next hs
  split
  · next hr => exact lawful_next (sfrm_laws_inReset hs hr hreset _)
  · exact lawful_next (endFrame_laws (hs.of_view (view_takePortCommand s)))

theorem execSclkRisingEdge_lawful (sdat : Bool) : Lawful (execSclkRisingEdge sdat s) := by
  have htaken := hs.of_view (view_takePortCommand s)
  unfold execSclkRisingEdge
  split
  · exact lawful_next hs
  · exact lawful_next (laws_of_port htaken (sclk_portLaw htaken.standing.port sdat))

theorem execRecordSubmission_lawful (who : Submitter) : Lawful (execRecordSubmission who s) := by
  unfold execRecordSubmission
  split
  · exact lawful_view hs (view_takeRecord _ _)
  · exact lawful_next hs

theorem execShutoffAssert_lawful : Lawful (execShutoffAssert s) := by
  unfold execShutoffAssert
  split
  · exact lawful_next hs
  split
  · exact lawful_view hs rfl
  · exact lawful_view hs ((view_assertShutoff _).trans (view_takeLineCommand s))

omit hs in
/-- Power-on reset (R177): the laws hold at reset, and a DISABLED port does not go by SFRM. -/
theorem powerOn_laws (s : State) : Laws (powerOn s) := by
  obtain ⟨-, -, -, -, -, -, -, htimebase, hcommand, hengine, -⟩ := AtReset.lawsHoldAtReset
  have hport : PortLaw (powerOn s) := ⟨iff_of_true rfl rfl, fun e => e.elim nofun nofun, nofun, Nat.zero_le _⟩
  exact laws_iff.mpr ⟨hport, htimebase, hcommand, hengine⟩

/-- The end of power-on reset (R161, R180): the first interval begins. -/
theorem execPowerOnResetEnd_lawful : Lawful (execPowerOnResetEnd s) := by
  have hfirst : 0 < (s.timebase.tbdiv.toNat + 1) * 64 := by omega
  exact lawful_ite hs fun _ =>
    (laws_of_timebase (u := s.timebase.newInterval) (d := s.due) hs hfirst).of_view rfl

/-- Every command keeps the laws. -/
theorem exec_lawful (hreset : ResetLaw s) (c : Instr) : Lawful (exec c s) := by
  cases c with
  | readEntry => exact execReadEntry_lawful hs
  | writeEntry => exact execWriteEntry_lawful hs
  | arm => exact execArm_lawful hs
  | disarm => exact execDisarm_lawful hs
  | release => exact execRelease_lawful hs
  | releaseAll x => exact execReleaseAll_lawful hs x
  | readChannel => exact lawful_view_ite hs view_serveReadChannel
  | writeChannel => exact lawful_view_ite hs view_serveWriteChannel
  | enable => exact execEnable_lawful hs
  | disable => exact execDisable_lawful hs
  | readLine => exact lawful_view_ite hs view_serveReadLine
  | writeLine => exact lawful_view_ite hs view_serveWriteLine
  | silence => exact lawful_view_ite hs view_serveSilence
  | override => exact lawful_view_ite hs view_serveOverride
  | resume => exact lawful_view_ite hs view_serveResume
  | pop => exact execPop_lawful hs
  | flush => exact execFlush_lawful hs
  | readAcc => exact execReadAcc_lawful hs
  | writeAcc => exact execWriteAcc_lawful hs
  | clearPortCounts => exact lawful_view_ite hs view_serveClearPortCounts
  | restart x => exact execRestart_lawful hs x
  | badOpcode op | cmdOpWriteLost op | commandTaken op => exact lawful_hostWrite hs fun u hu => writeCmdOp_laws hu op
  | evaluation x => exact execEvaluation_lawful hs x
  | captureStep => exact execCaptureStep_lawful hs
  | qualificationTimerExpiry n | shapingTimerExpiry n => exact lawful_ite hs fun _ => bankTick_laws hs
  | qualificationExpiryTaken => exact execQualificationExpiryTaken_lawful hs
  | shapingExpiryTaken => exact execShapingExpiryTaken_lawful hs
  | tickBy x => exact execTickBy_lawful hs x
  | freshnessExpiry c => exact execFreshnessExpiry_lawful hs c
  | arrival => exact execArrival_lawful hs
  | arrivalOutcome => exact execArrivalOutcome_lawful hs
  | frameStart => exact execFrameStart_lawful hs hreset
  | frameEnd => exact execFrameEnd_lawful hs hreset
  | injTagWrite v => exact lawful_hostWrite hs fun u hu => writeInjTag_laws hu v
  | injValueLowWrite v | injValueHighWrite v | tbdivLowWrite v | tbdivHighWrite v | intFlagsClear v | intMaskWrite v =>
    exact lawful_hostWrite_view hs fun _ => rfl
  | oeChange v | portEnChange v => exact lawful_hostWrite hs fun u hu => writeControl_laws hu v
  | watermarkWrite v => exact lawful_hostWrite_view hs fun u => view_writeWatermark u v
  | headLatchLoad | timestampLatchLoad | bitmapLatchLoad b => exact lawful_hostRead hs fun _ => rfl
  | registerWrite a v => exact lawful_hostWrite hs fun u hu => writeWindow_laws hu a v
  | recordSubmission who => exact execRecordSubmission_lawful hs who
  | shutoffAssert => exact execShutoffAssert_lawful hs
  | shutoffRelease => exact lawful_view_ite hs fun _ => view_takeLineCommand s
  | powerOnReset => exact lawful_next (powerOn_laws s)
  | powerOnResetEnd => exact execPowerOnResetEnd_lawful hs
  | sclkRisingEdge sdat => exact execSclkRisingEdge_lawful hs sdat

end

/-- Settles O12: by cases on what a step does, the command at the front of the queue or a CLKIN period. -/
theorem stepKeepsPortTimebaseAndCommandLaws : Obligations.StepKeepsPortTimebaseAndCommandLaws := by
  intro s t hreset hport htimebase hcommand hengine hstep
  have hs : Laws s := laws_iff.mpr ⟨hport, htimebase, hcommand, hengine⟩
  rw [← laws_iff]
  unfold step at hstep
  split at hstep
  · exact lawful_next (clkin_laws hs) t hstep
  · next c rest _ =>
    have hrest : ResetLaw { s with pending := rest } := fun hr =>
      congrArg (fun u : State => { u with pending := rest }) (hreset hr)
    have hkept : Laws { s with pending := rest } := hs.of_view rfl
    exact exec_lawful hkept hrest c t hstep

end Sys2Proof.EngineLaws
end

section
/-! PROOFS. The tick's period in idle steps (O2): what a CLKIN period makes of the prescale count, then an interval of
them by induction. -/

namespace Sys2Proof.TickPeriod

open Sys2Proof.Machine Sys2Proof.Claims

/-! ## One CLKIN period -/

/-- `s` with the prescale count at `k`. -/
def prescaled (s : State) (k : Nat) : State :=
  { s with timebase := { s.timebase with prescale := k } }

section
variable {s : State} {k : Nat}

theorem prescaled_of_eq (h : s.timebase.prescale = k) : prescaled s k = s := by
  rw [← h, prescaled]

theorem step_of_idle (hidle : s.pending = []) : step s = .next (clkin s) := by
  rw [step, hidle]

/-- Before the end of the interval a CLKIN period is counted (R156). -/
theorem clkin_prescaled_of_lt (hrun : s.inReset = false) (hk : k + 1 < s.timebase.period) :
    clkin (prescaled s k) = prescaled s (k + 1) := by
  have hreset : ¬(prescaled s k).inReset = true := Bool.not_eq_true _ ▸ hrun
  have hshort : ¬(prescaled s k).timebase.period ≤ k + 1 := Nat.not_le.mpr hk
  exact (if_neg hreset).trans (if_neg hshort)

/-- The end of an interval discards the count it was reached with (R156). -/
theorem endInterval_prescaled (hrun : s.inReset = false) : endInterval (prescaled s k) = endInterval s := by
  have hreset : ¬s.inReset = true := Bool.not_eq_true _ ▸ hrun
  exact (if_neg hreset).trans (if_neg hreset).symm

/-- The CLKIN period that reaches the end of the interval is the whole tick (R156). -/
theorem clkin_prescaled_of_eq (hrun : s.inReset = false) (hk : k + 1 = s.timebase.period) :
    clkin (prescaled s k) = tick s := by
  have hreset : ¬(prescaled s k).inReset = true := Bool.not_eq_true _ ▸ hrun
  have hend : (prescaled s k).timebase.period ≤ k + 1 := hk.ge
  have htick : tick (prescaled s k) = tick s := by rw [tick, tick, endInterval_prescaled hrun]
  exact ((if_neg hreset).trans (if_pos hend)).trans htick

/-! ## An interval of them -/

/-- `after` takes its first step first; this is its last step. -/
theorem after_succ_of_after {t u : State} (h : after k s = some t) (hstep : step t = .next u) :
    after (k + 1) s = some u := by
  induction k generalizing s with
  | zero =>
    obtain rfl := Option.some.inj h
    simp only [after, hstep]
  | succ k ih =>
    rw [after] at h ⊢
    cases hs : step s with
    | next v =>
      rw [hs] at h
      exact ih h
    | fault f | refused r =>
      rw [hs] at h
      cases h

/-- Within the interval the count is the number of idle steps since its beginning. -/
theorem after_of_lt_period (hidle : s.pending = []) (hrun : s.inReset = false) (hstart : s.timebase.prescale = 0)
    (hk : k < s.timebase.period) : after k s = some (prescaled s k) := by
  induction k with
  | zero => rw [after, prescaled_of_eq hstart]
  | succ k ih =>
    have hstep : step (prescaled s k) = .next (prescaled s (k + 1)) :=
      (step_of_idle (s := prescaled s k) hidle).trans (congrArg _ (clkin_prescaled_of_lt hrun hk))
    exact after_succ_of_after (ih (Nat.lt_of_succ_lt hk)) hstep

/-- The idle step that reaches the end of the interval is the tick. -/
theorem after_period (hidle : s.pending = []) (hrun : s.inReset = false) (hstart : s.timebase.prescale = 0) :
    after s.timebase.period s = some (tick s) := by
  obtain ⟨k, hk⟩ : ∃ k, s.timebase.period = k + 1 :=
    Nat.exists_eq_succ_of_ne_zero (by rw [Timebase.period]; omega)
  have hcounted : after k s = some (prescaled s k) := after_of_lt_period hidle hrun hstart (by omega)
  have hstep : step (prescaled s k) = .next (tick s) :=
    (step_of_idle (s := prescaled s k) hidle).trans (congrArg _ (clkin_prescaled_of_eq hrun hk.symm))
  rw [hk]
  exact after_succ_of_after hcounted hstep

end

/-- Settles O2: the count by induction over the idle steps of an interval, and the tick by the last of them. -/
theorem tickPeriodInIdleSteps : Obligations.TickPeriodInIdleSteps := by
  intro s hidle hrun hstart
  exact ⟨fun _ hk => after_of_lt_period hidle hrun hstart hk, tick s, rfl, after_period hidle hrun hstart⟩

end Sys2Proof.TickPeriod
end

section
/-! PROOFS. Index arguments above the highest of their kind (O19), and the host's writes: the CMD_OP write (O57), the
interrupt registers (O58) and the other locations of the window (O55). -/

namespace Sys2Proof.HostWrites

open Sys2Proof.Machine Sys2Proof.Safety Sys2Proof.Claims Sys2Proof.Images Sys2Proof.Edges Sys2Proof.Choosing
  Sys2Proof.QueueCommands Sys2Proof.EngineLaws

/-! ## Index arguments -/

section
variable {s : State}

theorem entryArg_of_above (h : 32 ≤ s.cmd.captured0.toNat) : entryArg s = none :=
  indexOf_eq_none.mpr h

theorem channelArg_of_above (h : 16 ≤ s.cmd.captured0.toNat) : channelArg s = none :=
  indexOf_eq_none.mpr h

theorem lineArg_of_above (h : 16 ≤ s.cmd.captured0.toNat) : lineArg s = none :=
  indexOf_eq_none.mpr h

/-- READ_ACC or WRITE_ACC is taken when it is PENDING and has waited longest (R110). -/
theorem takeAccCommand_of_waits {c : Command} {rest : List CaptureEvent} (hw : Waits c s)
    (hc : s.captures = .command :: rest) : takeAccCommand c s = some { s with captures := rest } :=
  takeAccCommand_eq_some.mpr ⟨ready_iff.mpr hw, rest, hc, rfl⟩

end

/-- Settles O19: the check of the index comes first in every indexed command, command by command. -/
theorem indexAboveRangeIsRefused : Obligations.IndexAboveRangeIsRefused := by
  intro s
  simp only [List.forall_mem_cons, List.not_mem_nil, false_imp_iff, implies_true, and_true]
  refine ⟨⟨?readEntry, ?writeEntry, ?arm, ?disarm, ?release⟩, ⟨?enable, ?disable⟩,
    ⟨?readChannel, ?writeChannel, ?readLine, ?writeLine, ?silence, ?override⟩, ?readAcc, ?writeAcc⟩
  case readEntry | writeEntry | arm | disarm | release =>
    intro hs hindex
    simp only [exec, execReadEntry, execWriteEntry, execArm, execDisarm, execRelease,
      if_pos (tableReady_of_served hs), entryArg_of_above hindex, endService_eq_served]
  case enable | disable =>
    intro hs hindex
    simp only [exec, execEnable, execDisable, if_pos (tableReady_of_served hs), channelArg_of_above hindex,
      endService_eq_served]
  case readChannel | writeChannel =>
    intro hw hindex
    simp only [exec, execReadChannel, execWriteChannel, if_pos (ready_iff.mpr hw), serveReadChannel, serveWriteChannel,
      channelArg_of_above hindex, complete_eq_completed]
  case readLine | writeLine | silence | override =>
    intro hw hindex
    simp only [exec, execReadLine, execWriteLine, execSilence, execOverride, if_pos (ready_iff.mpr hw), serveReadLine,
      serveWriteLine, serveSilence, serveOverride, lineArg_of_above hindex, complete_eq_completed]
  case readAcc | writeAcc =>
    intro rest hw hc hindex
    have hnone : indexOf 8 s.cmd.captured0 = none := indexOf_eq_none.mpr hindex
    simp only [exec, execReadAcc, execWriteAcc, takeAccCommand_of_waits hw hc, hnone, complete_eq_completed]

/-! ## Write cycles -/

section
variable {s : State} (hr : s.inReset = false)
include hr

/-- A write cycle outside power-on reset (R162). -/
theorem hostWrite_running (f : State → State) : hostWrite f s = f { s with dataOut := none } := by
  rw [hostWrite_eq, if_neg (Bool.eq_false_iff.mp hr)]

/-! ## CMD_OP -/

/-- A CMD_OP write in IDLE or DONE with a known opcode (R167). -/
theorem writeCmdOp_known {op : Byte} {c : Command} (hp : s.cmd.state ≠ .pending) (hop : op = encodeOpcode c) :
    hostWrite (writeCmdOp op) s = handToOwner c (takeCommand op { s with dataOut := none }) := by
  have hknown : decodeOpcode op = some c := hop ▸ decodeOpcode_encodeOpcode c
  simp only [hostWrite_running hr, writeCmdOp, beq_eq_false_iff_ne.mpr hp, hknown, Bool.false_eq_true, if_false]

/-- A CMD_OP write in IDLE or DONE with an opcode that names no command (R170). -/
theorem writeCmdOp_unknown {op : Byte} (hp : s.cmd.state ≠ .pending) (hop : ¬ ∃ c : Command, op = encodeOpcode c) :
    hostWrite (writeCmdOp op) s = complete .badOpcode (takeCommand op { s with dataOut := none }) := by
  have hunknown : decodeOpcode op = none :=
    Option.eq_none_iff_forall_ne_some.mpr fun c hc => hop ⟨c, encodeOpcode_of_decode hc⟩
  simp only [hostWrite_running hr, writeCmdOp, beq_eq_false_iff_ne.mpr hp, hunknown, Bool.false_eq_true, if_false]

/-- A CMD_OP write while PENDING is lost (R169). -/
theorem writeCmdOp_pending (op : Byte) (hp : s.cmd.state = .pending) :
    hostWrite (writeCmdOp op) s = request .cmdLost { s with dataOut := none } := by
  simp only [hostWrite_running hr, writeCmdOp, hp, beq_self_eq_true, if_true]

end

/-- Settles O57: by the three branches of the CMD_OP write, and the owner of the command where it is taken. -/
theorem cmdOpIsTakenCompletedOrLost : Obligations.CmdOpIsTakenCompletedOrLost := by
  intro s op hr
  refine ⟨fun c hp hop => ⟨takeCommand op { s with dataOut := none }, rfl, fun htable => ?_, fun hacc => ?_,
    fun htable hread hwrite => ?_⟩, fun hp hop => ?_, fun hp => ?_⟩
  · rw [exec, execCommandTaken, writeCmdOp_known hr hp hop, handToOwner, if_pos htable]
  · have hcapture : c.isCapture = true := isCapture_iff.mpr hacc
    have htable : ¬ c.isTable = true := fun h => Bool.false_ne_true ((isCapture_of_isTable h).symm.trans hcapture)
    rw [exec, execCommandTaken, writeCmdOp_known hr hp hop, handToOwner, if_neg htable, if_pos hcapture]
    rfl
  · have hcapture : ¬ c.isCapture = true := fun h => (isCapture_iff.mp h).elim hread hwrite
    rw [exec, execCommandTaken, writeCmdOp_known hr hp hop, handToOwner, if_neg (Bool.eq_false_iff.mp htable),
      if_neg hcapture]
  · rw [exec, execBadOpcode, writeCmdOp_unknown hr hp hop]
    rfl
  · rw [exec, execCmdOpWriteLost, writeCmdOp_pending hr op hp]
    rfl

/-! ## The interrupt registers -/

/-- INT# shows a flag that is set and enabled (R175). -/
theorem intAsserted_iff (s : State) : intAsserted s = true ↔
    s.inReset = false ∧ ∃ i : Fin 7, s.intr.flags.getLsbD i.val = true ∧ s.intr.mask.getLsbD i.val = true := by
  have hbits : s.intr.flags &&& s.intr.mask ≠ 0 ↔
      ∃ i : Fin 7, s.intr.flags.getLsbD i.val = true ∧ s.intr.mask.getLsbD i.val = true := by
    constructor
    · intro hne
      by_contra hnone
      refine hne (BitVec.eq_of_getLsbD_eq fun i hi => ?_)
      refine Eq.trans ?_ BitVec.getLsbD_zero.symm
      rw [BitVec.getLsbD_and, Bool.and_eq_false_iff]
      by_contra hboth
      rw [not_or, Bool.not_eq_false, Bool.not_eq_false] at hboth
      exact hnone ⟨⟨i, hi⟩, hboth⟩
    · rintro ⟨i, hflag, hmask⟩ hzero
      have hbit : (s.intr.flags &&& s.intr.mask).getLsbD i.val = true := by rw [BitVec.getLsbD_and, hflag, hmask]; rfl
      rw [hzero] at hbit
      exact Bool.false_ne_true (BitVec.getLsbD_zero.symm.trans hbit)
  rw [intAsserted, Bool.and_eq_true, Bool.not_eq_true', bne_iff_ne, hbits]

/-- Settles O58: the two writes bit by bit, and INT#. -/
theorem interruptFlagsMaskAndPin : Obligations.InterruptFlagsMaskAndPin := by
  refine ⟨fun s v hr => ⟨s.intr.flags &&& ~~~(v.setWidth 7), v.setWidth 7, fun i => ?_, fun i => ?_, ?_, ?_⟩,
    intAsserted_iff⟩
  · simp [BitVec.getLsbD_and, BitVec.getLsbD_not, BitVec.getLsbD_setWidth, -BitVec.getLsbD_eq_getElem]
  · simp [BitVec.getLsbD_setWidth, -BitVec.getLsbD_eq_getElem]
  · rw [exec, execIntFlagsClear, hostWrite_running hr]
    rfl
  · rw [exec, execIntMaskWrite, hostWrite_running hr]
    rfl

/-! ## The window -/

theorem writeWindow_staging (k : Fin 32) (v : Byte) (s : State) :
    writeWindow (BitVec.ofNat 7 (0x40 + k.val)) v s = writeStaging k v s := by
  rw [writeWindow, Reads.stagingIndex_ofNat]

/-- The addresses at which no write has an effect: the read-only and the unassigned ones (R163, Table 11-1). -/
theorem writeWindow_readOnly {a : Address} (v : Byte) (s : State)
    (ha : a.toNat ∈ [0x00, 0x01, 0x02, 0x04, 0x0A, 0x0B, 0x0F] ∨ (0x10 ≤ a.toNat ∧ a.toNat < 0x18)
      ∨ (0x1B ≤ a.toNat ∧ a.toNat < 0x40) ∨ 0x60 ≤ a.toNat) : writeWindow a v s = s := by
  simp only [List.mem_cons, List.not_mem_nil, or_false] at ha
  have hstaging : stagingIndex a = none := dif_neg (by omega)
  unfold writeWindow
  rw [hstaging]
  dsimp only
  split
  case h_13 => rfl
  all_goals omega

/-- An address with a row of its own is written as that row says (R163, log 13). -/
theorem exec_writeRow (a : Address) (v : Byte) (s : State) : exec (writeRow a v s) s = exec (.registerWrite a v) s := by
  have eq_of {k : Address} (h : a.toNat = k.toNat) : a = k := BitVec.eq_of_toNat_eq h
  unfold writeRow
  split
  case h_1 h =>
    obtain rfl := eq_of (k := 0x03) h
    split
    · rfl
    · split <;> rfl
  case h_2 h => exact eq_of (k := 0x05) h ▸ rfl
  case h_3 h => exact eq_of (k := 0x06) h ▸ rfl
  case h_4 h =>
    obtain rfl := eq_of (k := 0x07) h
    split
    · rfl
    · split <;> rfl
  case h_5 h => exact eq_of (k := 0x0C) h ▸ rfl
  case h_6 h => exact eq_of (k := 0x0D) h ▸ rfl
  case h_7 h => exact eq_of (k := 0x0E) h ▸ rfl
  case h_8 h => exact eq_of (k := 0x18) h ▸ rfl
  case h_9 h => exact eq_of (k := 0x19) h ▸ rfl
  case h_10 h => exact eq_of (k := 0x1A) h ▸ rfl
  case h_11 => rfl

/-- In a write cycle nothing drives D7 to D0 (R162, R181). -/
theorem dataPins_write (rd : Bool) (s : State) : dataPins true rd true s = none := by
  unfold dataPins
  split <;> rfl

/-- Settles O55: the plain writes one by one; then that a row of its own is what its address does, address by address;
then the write cycle with the read strobe high or low. -/
theorem writesStoreWhatTheMapSays : Obligations.WritesStoreWhatTheMapSays := by
  refine ⟨fun s v hr => ?_, fun s a v => ?_, fun s rd a v => ⟨?_, ?_, ?_⟩⟩
  · simp only [exec, execInjValueLowWrite, execInjValueHighWrite, execTbdivLowWrite, execTbdivHighWrite,
      execRegisterWrite, hostWrite_running hr, writeWindow_staging]
    refine ⟨rfl, rfl, rfl, rfl, rfl, rfl, fun k hp => ?_, fun k hp => ?_, fun a ha => ?_⟩
    · simp only [writeStaging, beq_eq_false_iff_ne.mpr hp, Bool.false_eq_true, if_false]
    · refine ⟨if Config.stagingWriteSeen s.freeCount then s.cmd.seen.set k v else s.cmd.seen, ?_, ?_⟩
      · split
        · exact .inr rfl
        · exact .inl rfl
      · simp only [writeStaging, hp, beq_self_eq_true, if_true]
    · rw [writeWindow_readOnly v _ ha]
  · exact exec_writeRow a v s
  · rfl
  · rfl
  · exact dataPins_write rd _

end Sys2Proof.HostWrites
end

section
/-! PROOFS. Power-on reset (O59): every table holds one power-on record throughout, and in reset no bus cycle is an
event. -/

namespace Sys2Proof.PowerOn

open Sys2Proof.Machine Sys2Proof.Safety Sys2Proof.Claims Sys2Proof.AtReset Sys2Proof.QueueCommands

/-! ## The power-on values -/

theorem powerOn_entry (s : State) (n : Fin 32) : (powerOn s).entries[n] = Entry.powerOn := reset_entry n

theorem powerOn_channel (s : State) (c : Fin 16) : (powerOn s).channels[c] = Channel.powerOn := reset_channel c

theorem powerOn_line (s : State) (l : Fin 16) : (powerOn s).lines[l] = Line.powerOn := reset_line l

theorem powerOn_exclusive (s : State) (p : Fin 8) : (powerOn s).exclusive[p] = false := by simp [powerOn, State.reset]

theorem powerOn_acc (s : State) (a : Fin 8) : (powerOn s).accs[a] = 0 := by simp [powerOn, State.reset]

theorem powerOn_staging (s : State) (k : Fin 32) : (powerOn s).staging[k] = 0 := by simp [powerOn, State.reset]

theorem powerOn_due (s : State) (c : Fin 16) : (powerOn s).due.channels[c] = 0 := by
  simp [powerOn, State.reset, DueTicks.none]

/-- No claim waits with an entry at its power-on values (R61). -/
theorem powerOn_noClaim (n : Fin 32) (s : State) : NoClaim n (powerOn s) := by
  rw [NoClaim, powerOn_entry]
  exact ⟨nofun, rfl, nofun, rfl⟩

/-- Table 1-3 at the power-on values: the three references name nothing, every other byte is 0 (R1). -/
theorem entryImage_powerOn : ∀ i : Fin 32, (entryImage Entry.powerOn false)[i] =
    if i.val = 8 ∨ i.val = 15 ∨ i.val = 19 then 0xFF else 0 := by
  decide

/-- Table 7-5 at the power-on values (R142). -/
theorem channelImage_powerOn : ∀ i : Fin 32, (channelImage Channel.powerOn false)[i] = 0 := by
  decide

/-- Table 5-3 at the power-on values (R108). -/
theorem lineImage_powerOn : ∀ i : Fin 32, (lineImage Line.powerOn false false)[i] = 0 := by
  decide

/-! ## Bus cycles in reset -/

section
variable {s : State} (hr : s.inReset = true)
include hr

/-- In power-on reset a write cycle is no event (R177). -/
theorem hostWrite_inReset (f : State → State) : hostWrite f s = s := by
  rw [hostWrite_eq, if_pos hr]

/-- In power-on reset a read cycle is no event (R177, R181). -/
theorem hostRead_inReset (b : Byte) (f : State → State) : hostRead b f s = s := by
  rw [hostRead_eq, if_pos hr]

theorem readCycle_inReset (a : Address) : readCycle a s = s := by
  have hbefore : beforeRead a s = s := by simp [beforeRead, hr]
  rw [readCycle, hbefore]
  exact hostRead_inReset hr _ _

theorem busEvent_inReset (cs rd wr : Bool) (a : Address) (v : Byte) : busEvent cs rd wr a v s = s := by
  unfold busEvent
  split
  · rfl
  · exact readCycle_inReset hr a
  · exact hostWrite_inReset hr _

theorem dataPins_inReset (cs rd wr : Bool) : dataPins cs rd wr s = none := by
  rw [dataPins, if_pos hr]

theorem readWindow_inReset (a : Address) : readWindow s a = 0 := by
  rw [readWindow, if_pos hr]

end

/-- Settles O59: block by block, from the power-on record of each table. -/
theorem powerOnResetGivesThePowerOnValues : Obligations.PowerOnResetGivesThePowerOnValues := by
  refine ⟨fun s => ⟨powerOn s, rfl, rfl, rfl, rfl, rfl, rfl, rfl, rfl, rfl, fun n i => ?_, fun n => ?_, fun c i => ?_,
    fun c => ?_, fun l i => ?_, powerOn_acc s, rfl, rfl, rfl, clear_get, rfl, rfl, rfl, rfl, rfl, rfl, rfl, rfl, rfl,
    rfl, rfl, powerOn_staging s, rfl, rfl, rfl, powerOn_due s, rfl, rfl, fun cs rd wr a v => ?_, readWindow_inReset rfl,
    fun l => ?_, rfl⟩, fun s hr => ?_⟩
  · rw [powerOn_entry]
    exact entryImage_powerOn i
  · refine ⟨?_, ?_, ?_, powerOn_noClaim n s⟩ <;> rw [powerOn_entry] <;> rfl
  · rw [powerOn_channel]
    exact channelImage_powerOn i
  · rw [powerOn_channel]
    rfl
  · rw [powerOn_line, powerOn_exclusive]
    exact lineImage_powerOn i
  · exact ⟨busEvent_inReset rfl cs rd wr a v, dataPins_inReset rfl cs rd wr⟩
  · rw [outLevel, powerOn_line]
    rfl
  · rw [exec, execPowerOnResetEnd, if_pos hr]
    rfl

end Sys2Proof.PowerOn
end

section
/-! PROOFS. RESTART (O29, O30): the submissions that wait are taken one after another, each from the front, so that the
queue's part is the sum of them and the RESTART record; and the parts in their turns, of which the three blocks' may
change places. -/

namespace Sys2Proof.Restart

open Sys2Proof.Machine Sys2Proof.Safety Sys2Proof.Claims Sys2Proof.Images Sys2Proof.QueueEvents Sys2Proof.QueueCommands
  Sys2Proof.Handling Sys2Proof.Evaluations

/-! ## What a submission goes by -/

/-- `v` with the queue and the interrupt unit of `u`. -/
def withQueueOf (u v : State) : State :=
  { v with queue := u.queue, intr := u.intr }

/-- What the queue takes reaches the queue and the interrupt unit, and goes by them and TIMESTAMP alone (R65, R66). -/
theorem takeRecord_withQueueOf (b : RecordBody) {u v : State} (ht : v.timebase = u.timebase) :
    takeRecord b (withQueueOf u v) = withQueueOf (takeRecord b u) v := by
  have admitted : admitWithRoom b (withQueueOf u v) = withQueueOf (admitWithRoom b u) v := by
    simp only [admitWithRoom, requestSevere, requestIf_eq, withQueueOf, ht]
  have evicted (victim : Record) (rest : List Record) :
      admitByEviction b victim rest (withQueueOf u v) = withQueueOf (admitByEviction b victim rest u) v := by
    simp only [admitByEviction, requestSevere, requestIf_eq, request, withQueueOf, ht]
  have dropped : dropRecord b (withQueueOf u v) = withQueueOf (dropRecord b u) v := rfl
  have hqueue : (withQueueOf u v).queue = u.queue := rfl
  unfold takeRecord
  rw [hqueue]
  split
  · exact admitted
  · split
    · exact dropped
    · split
      · exact evicted _ _
      · exact dropped

/-- `s` with the submissions `ws` waiting. -/
def withWaiting (ws : List Waiting) (s : State) : State :=
  { s with waiting := ws }

/-- What the queue takes does not go by what waits behind it. -/
theorem takeRecord_withWaiting (b : RecordBody) (ws : List Waiting) (s : State) :
    takeRecord b (withWaiting ws s) = withWaiting ws (takeRecord b s) := by
  obtain ⟨q, f, h⟩ := takeRecord_frame b s
  have hkept : withQueueOf (takeRecord b s) (withWaiting ws s) = withWaiting ws (takeRecord b s) := by
    rw [h]
    rfl
  rw [← hkept, ← takeRecord_withQueueOf b (u := s) (v := withWaiting ws s) rfl]
  rfl

theorem foldl_takeRecord_withQueueOf (ws : List Waiting) {u v : State} (ht : v.timebase = u.timebase) :
    ws.foldl (fun u w => takeRecord w.body u) (withQueueOf u v) =
      withQueueOf (ws.foldl (fun u w => takeRecord w.body u) u) v := by
  induction ws generalizing u with
  | nil => rfl
  | cons w ws ih =>
    have htime : v.timebase = (takeRecord w.body u).timebase := by
      obtain ⟨_, _, h⟩ := takeRecord_frame w.body u
      rw [h]
      exact ht
    rw [List.foldl_cons, List.foldl_cons, takeRecord_withQueueOf w.body ht, ih htime]

/-- The front submission is always one the queue can take (R65). -/
theorem recordSubmission_front (w : Waiting) (ws : List Waiting) (s : State) :
    exec (.recordSubmission w.submitter) (withWaiting (w :: ws) s) = .next (withWaiting ws (takeRecord w.body s)) := by
  rw [← takeRecord_withWaiting]
  exact recordSubmission_taken (s := withWaiting (w :: ws) s) (pre := []) rfl (List.forall_mem_nil _)
    (List.forall_mem_nil _)

/-- The submissions that wait, taken in the order in which they wait (R65). -/
theorem runAll_submissions (s : State) :
    runAll (s.waiting.map fun w => .recordSubmission w.submitter) s = some (takeWaiting s) := by
  have front (ws : List Waiting) : ∀ u : State,
      runAll (ws.map fun w => .recordSubmission w.submitter) (withWaiting ws u) =
        some (ws.foldl (fun u w => takeRecord w.body u) (withWaiting [] u)) := by
    induction ws with
    | nil => exact fun _ => rfl
    | cons w ws ih =>
      intro u
      rw [List.map_cons, runAll, recordSubmission_front]
      dsimp only
      rw [ih, List.foldl_cons, takeRecord_withWaiting]
  exact front s.waiting s

/-! ## The queue's part -/

/-- `withQueueOf` for the submissions that wait (R65). -/
theorem takeWaiting_withQueueOf {u v : State} (ht : v.timebase = u.timebase) (hw : v.waiting = u.waiting) :
    takeWaiting (withQueueOf u v) = { withQueueOf (takeWaiting u) v with waiting := [] } := by
  have h := foldl_takeRecord_withQueueOf u.waiting (u := { u with waiting := [] }) (v := { v with waiting := [] }) ht
  rw [takeWaiting, show (withQueueOf u v).waiting = u.waiting from hw]
  exact h

/-- Of `s` with nothing waiting, the queue of `u` emptied but for the RESTART record, and the requests of its admission
(R77, R78, R80). -/
def recordTaken (u s : State) : State :=
  { s with
    waiting := []
    queue := queueRestarted u
    intr := { s.intr with flags := u.intr.flags ||| 0x02 ||| if s.queue.watermark = 1 then 0x01 else 0 } }

/-- The requests of the RESTART record's admission: SEVERE, and EVENTS where WATERMARK is 1 (R77, R78). -/
theorem restart_requests (f : BitVec 7) (w : Byte) :
    (f ||| (if 0 + 1 = w.toNat then 0x01 else 0) ||| if restartRecord.severity = 3 then 0x02 else 0) =
      f ||| 0x02 ||| if w = 1 then 0x01 else 0 := by
  have hone : 0 + 1 = w.toNat ↔ w = 1 := by
    rw [← BitVec.toNat_inj]
    exact eq_comm
  rw [if_congr hone rfl rfl, if_pos (c := restartRecord.severity = 3) rfl, BitVec.or_assoc, BitVec.or_assoc, BitVec.or_comm (0x02 : BitVec 7)]

/-- The queue's part: the submissions that wait are taken, and the RESTART record then stands alone (R80). -/
theorem restartQueue_eq (s : State) : restartQueue s = recordTaken (takeWaiting s) s := by
  have hwatermark := takeWaiting_watermark s
  obtain ⟨q, f, hframe⟩ := takeWaiting_frame s
  generalize hu : takeWaiting s = u at hwatermark hframe
  have hroom : u.queue.emptied.records.length < 64 := Nat.zero_lt_succ 63
  have hrecord : recordTaken u s = { u with
      queue := queueRestarted u
      intr := { u.intr with flags := u.intr.flags ||| 0x02 ||| if s.queue.watermark = 1 then 0x01 else 0 } } := by
    rw [hframe]
    rfl
  rw [restartQueue, hu]
  rw [takeRecord_of_room hroom, hrecord, ← hwatermark, ← restart_requests]
  rfl

/-! ## What RESTART leaves of each record -/

theorem channel_restarted (ch : Channel) : ch.restarted = channelRestarted ch := by
  unfold Channel.restarted channelRestarted
  cases h : ch.state <;> rfl

theorem port_restarted (p : Port) : p.restarted = portRestarted p := by
  unfold Port.restarted portRestarted
  cases h : p.reception <;> simp [Port.countsCleared, h]

/-- The engine's part returns each armed entry to its arm-time state (R60). -/
theorem restartEngine_entries (s : State) : EntriesRestarted s (restartEngine s) := by
  intro n
  have hentry : (restartEngine s).entries[n] = s.entries[n].restarted s.entries := get_mapVec _ _ _
  refine ⟨fun hdis => ?_, fun harmed => ?_⟩
  · rw [hentry, Entry.restarted, if_pos (beq_iff_eq.mpr hdis)]
  · rw [ArmTime, hentry, Entry.restarted, if_neg (mt beq_iff_eq.mp harmed)]
    refine ⟨effectiveLimit_limitOf n s, ?_⟩
    simp only [Entry.armTime, Entry.cancelShape, Entry.cancelQual, claims_eq]

/-! ## The parts in their turns -/

section
variable {s : State} {out ch port irq rec : Bool}

theorem restartPart_engine (hs : Served .restart s) : restartPart .engine s = restartEngine s := by
  simp [restartPart, hs.2, ready_iff.mpr hs.1]

theorem restartPart_output (he : s.engine = .restarting false ch port irq rec) :
    restartPart .output s = withEngine (.restarting true ch port irq rec) (restartOutputs s) := by
  simp [restartPart, he, withEngine]

theorem restartPart_channel (he : s.engine = .restarting out false port irq rec) :
    restartPart .channel s = withEngine (.restarting out true port irq rec) (restartChannels s) := by
  simp [restartPart, he, withEngine]

theorem restartPart_port (he : s.engine = .restarting out ch false irq rec) :
    restartPart .port s = withEngine (.restarting out ch true irq rec) (modPort Port.restarted s) := by
  simp [restartPart, he, withEngine]

theorem restartPart_interrupt (he : s.engine = .restarting true true true false rec) :
    restartPart .interrupt s = withEngine (.restarting true true true true rec) (restartInterrupts s) := by
  simp [restartPart, he, withEngine]

theorem restartPart_record (he : s.engine = .restarting true true true true false) :
    restartPart .queue s = withEngine (.restarting true true true true true) (restartQueue s) := by
  simp [restartPart, he, withEngine]

theorem restartPart_completion (he : s.engine = .restarting true true true true true) :
    restartPart .completion s = served .ok s := by
  simp [restartPart, he, endService_eq_served]

/-- No part comes before the engine's, and the engine's only as its work item (R172). -/
theorem restartPart_before (p : RestartPart)
    (he : ∀ out ch port irq rec : Bool, s.engine ≠ .restarting out ch port irq rec)
    (hp : p ≠ .engine ∨ ¬ Served .restart s) : restartPart p s = s := by
  rcases restartPart_cases p s with h | ⟨rfl, htable, hready, -⟩ | ⟨_, _, _, _, _, h, -⟩
  · exact h
  · exact absurd ⟨ready_iff.mp hready, htable⟩ (hp.resolve_left (not_not.mpr rfl))
  · exact absurd h (he _ _ _ _ _)

/-- The parts of the three blocks. -/
abbrev blockParts : List RestartPart := [.output, .channel, .port]

/-- The parts of the three blocks may change places (R172). -/
theorem restartPart_comm {p q : RestartPart} (hp : p ∈ blockParts) (hq : q ∈ blockParts) (s : State) :
    restartPart q (restartPart p s) = restartPart p (restartPart q s) := by
  by_cases hrun : ∀ out ch port irq rec : Bool, s.engine ≠ .restarting out ch port irq rec
  · have hnone {r : RestartPart} (hr : r ∈ blockParts) : restartPart r s = s :=
      restartPart_before r hrun (.inl (by rintro rfl; exact absurd hr (by decide)))
    rw [hnone hp, hnone hq, hnone hp]
  push Not at hrun
  obtain ⟨out, ch, port, irq, rec, he⟩ := hrun
  have outputChannel : restartPart .channel (restartPart .output s) = restartPart .output (restartPart .channel s) := by
    cases out <;> cases ch <;> simp [restartPart, he, restartOutputs, restartChannels]
  have outputPort : restartPart .port (restartPart .output s) = restartPart .output (restartPart .port s) := by
    cases out <;> cases port <;> simp [restartPart, he, restartOutputs, modPort]
  have channelPort : restartPart .port (restartPart .channel s) = restartPart .channel (restartPart .port s) := by
    cases ch <;> cases port <;> simp [restartPart, he, restartChannels, modPort]
  simp only [List.mem_cons, List.not_mem_nil, or_false] at hp hq
  rcases hp with rfl | rfl | rfl <;> rcases hq with rfl | rfl | rfl
  · rfl
  · exact outputChannel
  · exact outputPort
  · exact outputChannel.symm
  · rfl
  · exact channelPort
  · exact outputPort.symm
  · exact channelPort.symm
  · rfl

/-- Parts one after another, as commands. -/
theorem runAll_parts (ps : List RestartPart) (s : State) :
    runAll (ps.map fun p => .restart (.part p)) s = some (ps.foldl (fun s p => restartPart p s) s) := by
  induction ps generalizing s with
  | nil => rfl
  | cons p ps ih => exact ih (restartPart p s)

/-- In whatever order the three blocks take their parts, the parts are the RESTART as a whole. -/
theorem runAll_parts_eq {ps : List RestartPart} (hps : ps.Perm blockParts) (s : State) :
    runAll ((RestartPart.engine :: (ps ++ [RestartPart.interrupt, .queue, .completion])).map
      fun p => .restart (.part p)) s = runAll [.restart .finish] s := by
  have hblocks (u : State) : ps.foldl (fun s p => restartPart p s) u = blockParts.foldl (fun s p => restartPart p s) u :=
    hps.foldl_eq' (fun _ hp _ hq u => restartPart_comm (hps.subset hp) (hps.subset hq) u) u
  rw [runAll_parts, List.foldl_cons, List.foldl_append, hblocks]
  rfl

end

theorem exec_restart_finish (s : State) : exec (.restart .finish) s = .next (restartAll s) := rfl

theorem exec_restartPart (p : RestartPart) (s : State) : exec (.restart (.part p)) s = .next (restartPart p s) := rfl

/-- Settles O30: the parts out of their turns, then each in its turn, then the orders. -/
theorem restartPartsMakeTheRestart : Obligations.RestartPartsMakeTheRestart := by
  simp only [Obligations.RestartPartsMakeTheRestart, exec_restartPart, Host.Outcome.next.injEq]
  refine ⟨fun s p => restartPart_before p, fun s out ch port irq rec he => ?_,
    fun s hs => ⟨_, restartPart_engine hs, rfl, restartEngine_entries s⟩,
    fun s out ch port irq rec he => ⟨?_, ?_, ?_, ?_, ?_, ?_⟩, fun s _ ps hps => runAll_parts_eq ?_ s⟩
  · simp only [restartPart, he]
    refine ⟨trivial, ?_, ?_, ?_, ?_, ?_, ?_⟩
    · rintro rfl; rfl
    · rintro rfl; rfl
    · rintro rfl; rfl
    · rintro (rfl | rfl | rfl | rfl) <;> simp
    · rintro (rfl | rfl | rfl | rfl | rfl) <;> simp
    · rintro (rfl | rfl | rfl | rfl | rfl) <;> simp
  · rintro rfl
    refine ⟨_, restartPart_output he, ?_, get_mapVec Line.restarted s.lines⟩
    simp only [withEngine, restartOutputs]
  · rintro rfl
    refine ⟨_, restartPart_channel he, ?_,
      fun c => (get_mapVec Channel.restarted s.channels c).trans (channel_restarted _)⟩
    simp only [withEngine, restartChannels]
  · rintro rfl
    rw [restartPart_port he, modPort, port_restarted]
    rfl
  · rintro rfl rfl rfl rfl
    exact restartPart_interrupt he
  · rintro rfl rfl rfl rfl rfl
    exact ⟨_, restartPart_record he, takeWaiting s, runAll_submissions s, restartQueue_eq s⟩
  · rintro rfl rfl rfl rfl rfl
    exact restartPart_completion he
  · have hperm : ∀ qs ∈ [[RestartPart.output, .channel, .port], [.output, .port, .channel], [.channel, .output, .port],
        [.channel, .port, .output], [.port, .output, .channel], [.port, .channel, .output]], qs.Perm blockParts := by
      decide
    exact hperm ps hps

/-! ## The whole -/

@[simp] theorem withEngine_engine (e : Engine) (s : State) : (withEngine e s).engine = e := rfl

/-- What the parts before the record leave (R60, R107, R141, R154, R176). -/
def blocksRestarted (s : State) : State :=
  restartInterrupts (modPort Port.restarted (restartChannels (restartOutputs (restartEngine s))))

theorem withEngine_withEngine (e f : Engine) (s : State) : withEngine e (withEngine f s) = withEngine e s := rfl

theorem restartChannels_withEngine (e : Engine) (s : State) :
    restartChannels (withEngine e s) = withEngine e (restartChannels s) := rfl

theorem modPort_withEngine (e : Engine) (f : Port → Port) (s : State) :
    modPort f (withEngine e s) = withEngine e (modPort f s) := rfl

theorem restartInterrupts_withEngine (e : Engine) (s : State) :
    restartInterrupts (withEngine e s) = withEngine e (restartInterrupts s) := rfl

theorem restartParts_before_record {s : State} (hs : Served .restart s) :
    [RestartPart.engine, .output, .channel, .port, .interrupt].foldl (fun s p => restartPart p s) s =
      withEngine (.restarting true true true true false) (blocksRestarted s) := by
  rw [List.foldl_cons, restartPart_engine hs, List.foldl_cons, restartPart_output (s := restartEngine s) rfl,
    List.foldl_cons, restartPart_channel (withEngine_engine _ _), List.foldl_cons,
    restartPart_port (withEngine_engine _ _), List.foldl_cons, restartPart_interrupt (withEngine_engine _ _),
    List.foldl_nil, restartChannels_withEngine, withEngine_withEngine, modPort_withEngine, withEngine_withEngine,
    restartInterrupts_withEngine, withEngine_withEngine, blocksRestarted]

/-- The part with every flag clear (R176). -/
def flagsCleared (s : State) : State :=
  { s with intr := { s.intr with flags := 0 } }

theorem blocksRestarted_eq (s : State) : blocksRestarted s = { flagsCleared s with
    engine := .restarting false false false false false
    entries := mapVec (Entry.restarted s.entries) s.entries
    lines := mapVec Line.restarted s.lines
    oe := false
    pointer := 15
    channels := mapVec Channel.restarted s.channels
    port := s.port.restarted } := by
  simp only [blocksRestarted, restartInterrupts, modPort, restartChannels, restartOutputs, restartEngine, flagsCleared]

/-- The record's part finds the queue as the submissions leave it, whatever the other blocks have become. -/
theorem restartQueue_of_same {u v : State} (hqueue : v.queue = u.queue) (htime : v.timebase = u.timebase)
    (hwaiting : v.waiting = u.waiting) (hintr : v.intr = u.intr) :
    restartQueue v = recordTaken (takeWaiting u) v := by
  have hsame : withQueueOf u v = v := by rw [withQueueOf, ← hqueue, ← hintr]
  have htaken := takeWaiting_withQueueOf htime hwaiting
  have htakenTime : (takeWaiting u).timebase = v.timebase := by
    obtain ⟨_, _, h⟩ := takeWaiting_frame u
    rw [h, htime]
  rw [hsame] at htaken
  rw [restartQueue_eq, htaken]
  simp only [recordTaken, queueRestarted, withQueueOf, htakenTime]

theorem recordTaken_withEngine (u : State) (e : Engine) (s : State) :
    recordTaken u (withEngine e s) = withEngine e (recordTaken u s) := rfl

/-- RESTART as a whole is the blocks' parts, the record and the completion (R172, R173). -/
theorem restartAll_served {s : State} (hs : Served .restart s) : restartAll s =
    served .ok (withEngine (.restarting true true true true true)
      (recordTaken (takeWaiting (flagsCleared s)) (blocksRestarted s))) := by
  have hrest : restartAll s = restartPart .completion (restartPart .queue
      ([RestartPart.engine, .output, .channel, .port, .interrupt].foldl (fun s p => restartPart p s) s)) := rfl
  have hqueue : restartQueue (withEngine (.restarting true true true true false) (blocksRestarted s)) =
      recordTaken (takeWaiting (flagsCleared s))
        (withEngine (.restarting true true true true false) (blocksRestarted s)) := by
    rw [blocksRestarted_eq]
    exact restartQueue_of_same rfl rfl rfl rfl
  rw [hrest, restartParts_before_record hs, restartPart_record (withEngine_engine _ _),
    restartPart_completion (withEngine_engine _ _), hqueue, recordTaken_withEngine, withEngine_withEngine]

/-- The flags that RESTART sets: SEVERE and EVENTS of its record, CMD of its completion. -/
theorem restart_flags (f g : BitVec 7) : f ||| 0x02 ||| g ||| 0x20 = f ||| 0x22 ||| g := by
  rw [BitVec.or_assoc (f ||| 0x02), BitVec.or_comm g, ← BitVec.or_assoc, BitVec.or_assoc f]
  rfl

/-- Settles O29: the parts one after another, with the submissions that waited taken in the record's part. -/
theorem restartReturnsEveryBlock : Obligations.RestartReturnsEveryBlock := by
  intro s hs
  refine ⟨completed .ok (withEngine (.restarting true true true true true)
      (recordTaken (takeWaiting (flagsCleared s)) (blocksRestarted s))),
    takeWaiting (flagsCleared s), by rw [exec_restart_finish, restartAll_served hs]; rfl, runAll_submissions (flagsCleared s), ?_, ?_, ?_,
    ?_, fun l => ?_, fun c => ?_⟩
  · rw [blocksRestarted_eq]
    generalize takeWaiting (flagsCleared s) = u
    simp only [completed, withEngine, recordTaken, flagsCleared, restart_flags, port_restarted]
    rfl
  · intro hwaiting
    have hnone : (flagsCleared s).waiting = [] := hwaiting
    rw [takeWaiting, hnone, List.foldl_nil, ← hwaiting]
    rfl
  · obtain ⟨_, _, h⟩ := takeWaiting_frame (flagsCleared s)
    rw [h]
    rfl
  · rw [blocksRestarted_eq]
    exact restartEngine_entries s
  · rw [blocksRestarted_eq]
    exact get_mapVec Line.restarted s.lines l
  · rw [blocksRestarted_eq]
    exact (get_mapVec Channel.restarted s.channels c).trans (channel_restarted _)

end Sys2Proof.Restart
end

section
/-! PROOFS. The interrupt unit (O18): events of the other blocks set flags and clear none, and leave the mask as it is
(`Raises`). It is transitive, and so it is carried through every operation and then through every command
(`exec_bounds`), together with whether the part is in power-on reset. -/

namespace Sys2Proof.InterruptRequests

open Sys2Proof.Machine Sys2Proof.Claims Sys2Proof.Handling

/-! ## What an event does to the interrupt unit -/

/-- Whether the part is in power-on reset, and the interrupt unit. -/
def view (s : State) : Bool × Interrupts := (s.inReset, s.intr)

/-- Neither power-on reset nor the mask changes, and no flag is cleared (R174 to R176). -/
structure Raises (s t : State) : Prop where
  inReset : t.inReset = s.inReset
  mask : t.intr.mask = s.intr.mask
  flags : s.intr.flags &&& t.intr.flags = s.intr.flags

section
variable {s t u : State}

theorem Raises.of_view (h : view t = view s) : Raises s t := by
  obtain ⟨hreset, hintr⟩ := Prod.mk.inj h
  exact ⟨hreset, congrArg Interrupts.mask hintr, by rw [hintr, BitVec.and_self]⟩

theorem Raises.refl (s : State) : Raises s s := .of_view rfl

theorem Raises.trans (h : Raises s t) (k : Raises t u) : Raises s u where
  inReset := k.inReset.trans h.inReset
  mask := k.mask.trans h.mask
  flags := by rw [← h.flags, BitVec.and_assoc, k.flags]

/-- An event before another that does not reach the interrupt unit. -/
theorem Raises.before (h : Raises s t) (k : view u = view t) : Raises s u := h.trans (.of_view k)

/-- An event behind another that does not reach the interrupt unit. -/
theorem Raises.after (k : Raises t u) (h : view t = view s) : Raises s u := (Raises.of_view h).trans k

/-- A request sets its flag and clears none (R174). -/
theorem request_raises (f : Flag) (s : State) : Raises s (request f s) :=
  ⟨rfl, rfl, by rw [request_flags]; ext i; simp +contextual⟩

/-- A completion makes the CMD request (R168). -/
theorem complete_raises (r : Result) (h : view t = view s) : Raises s (complete r t) :=
  (request_raises .cmd { t with cmd := { t.cmd with result := r, state := .done } }).after h

theorem requestIf_raises (b : Bool) (f : Flag) (s : State) : Raises s (requestIf b f s) := by
  cases b
  · exact .refl s
  · exact request_raises f s

theorem view_handOverIf (b : Bool) (who : Submitter) (loose : Bool) (r : RecordBody) (s : State) :
    view (handOverIf b who loose r s) = view s := by
  cases b <;> rfl

end

/-! ## The output unit -/

section
variable (s : State)

theorem view_updateWant (loose : Bool) (l : Fin 16) : view (updateWant loose l s) = view s := by
  rw [updateWant_frame]
  rfl

theorem view_setContrib (l : Fin 16) (n : Fin 32) (b : Bool) : view (setContrib l n b s) = view s := by
  rw [setContrib_frame]
  rfl

theorem view_storeLine (l : Fin 16) (p : LineProposal) : view (storeLine l p s) = view s := by
  rw [OutputLaws.storeLine_frame]
  rfl

theorem serveReadLine_raises : Raises s (serveReadLine s) := by
  unfold serveReadLine
  split <;> exact complete_raises _ rfl

theorem serveWriteLine_raises : Raises s (serveWriteLine s) := by
  unfold serveWriteLine
  dsimp only
  split
  · exact complete_raises _ rfl
  · split
    · exact complete_raises _ rfl
    · exact complete_raises _ (view_storeLine s _ _)

theorem serveSilence_raises : Raises s (serveSilence s) := by
  unfold serveSilence
  split
  · exact complete_raises _ rfl
  · split
    · exact complete_raises _ rfl
    · exact complete_raises _ (view_updateWant _ _ _)

theorem serveOverride_raises : Raises s (serveOverride s) := by
  unfold serveOverride
  split
  · exact complete_raises _ rfl
  · split
    · exact complete_raises _ rfl
    · exact complete_raises _ (view_updateWant _ _ _)

theorem view_refreshPins (lines : Vector Line 16) : view (refreshPins { s with lines := lines }) = view s := by
  simp only [view, refreshPins]

theorem serveResume_raises : Raises s (serveResume s) := by
  unfold serveResume
  split
  · exact complete_raises _ rfl
  · exact complete_raises _ (view_refreshPins s _)

theorem takeLineCommand_raises : Raises s (takeLineCommand s) := by
  rcases takeLineCommand_cases s with h | ⟨-, r, lines, exclusive, waiting, b, h⟩ <;> rw [h]
  · exact .refl s
  · exact complete_raises r rfl

theorem writeOe_raises (b : Bool) : Raises s (writeOe b s) := by
  unfold writeOe
  split
  · exact .refl s
  · exact (takeLineCommand_raises s).before (by simp only [view, refreshPins])

/-- An assertion of SHUTOFF# requests CUTOFF (R99). -/
theorem assertShutoff_raises : Raises s (assertShutoff s) :=
  (request_raises .cutoff _).after (by simp only [view, handOver, refreshPins])

/-! ## The channel unit and the engine's choice -/

theorem serveReadChannel_raises : Raises s (serveReadChannel s) := by
  unfold serveReadChannel
  split <;> exact complete_raises _ rfl

theorem serveWriteChannel_raises : Raises s (serveWriteChannel s) := by
  unfold serveWriteChannel
  split
  · exact complete_raises _ rfl
  · split
    · exact complete_raises _ rfl
    · split <;> exact complete_raises _ rfl

theorem takeChannelCommand_raises (c : Fin 16) : Raises s (takeChannelCommand c s) := by
  rcases takeChannelCommand_cases c s with h | ⟨-, -, r, cfg, b, h⟩ <;> rw [h]
  · exact .refl s
  · exact complete_raises r rfl

theorem channelTick_raises (c : Fin 16) : Raises s (channelTick c s) := by
  rcases channelTick_cases c s with ⟨-, h⟩ | ⟨-, -, h⟩ | ⟨-, -, h⟩ <;> rw [h]
  · exact .refl s
  · have hexpiry (u : State) : view (freshnessExpiry c u) = view u := by
      rw [freshnessExpiry_frame]
      rfl
    exact ((takeChannelCommand_raises _ c).before (hexpiry _)).after rfl
  · exact .of_view rfl

theorem takeArrival_raises (fromPort : Bool) (c : Fin 16) (raw : Half) (status : SampleStatus) :
    Raises s (takeArrival fromPort c raw status s).2 := by
  unfold takeArrival
  dsimp only
  split
  · exact (takeChannelCommand_raises s c).before rfl
  · exact takeChannelCommand_raises s c

theorem settleTaken_raises (c : Fin 16) (item : Item) : Raises s (settleTaken c item s) := by
  have hsettle (u : State) : view (settle c item u).2 = view u := by
    rw [settle_work]
    rfl
  exact (takeChannelCommand_raises s c).before (hsettle _)

theorem chooseWork_raises : Raises s (chooseWork s) := by
  rcases chooseWork_cases s with ⟨-, h⟩ | ⟨-, -, -, h⟩ | ⟨c, -, -, h⟩ | ⟨c, item, -, -, -, -, h⟩ <;> rw [h]
  · exact .refl s
  · exact .refl s
  · exact .of_view rfl
  · exact (takeChannelCommand_raises s c).before rfl

theorem comeFree_raises : Raises s (comeFree s) :=
  (chooseWork_raises _).after rfl

theorem endService_raises (r : Result) : Raises s (endService r s) :=
  (complete_raises r rfl).trans (comeFree_raises _)

/-! ## Ticks -/

theorem bankTick_raises : Raises s (bankTick s) := by
  rcases bankTick_cases s with ⟨-, h⟩ | ⟨-, h⟩ <;> rw [h]
  · exact .refl s
  · have hbank : view (bankTimers s) = view s := by simp only [view, bankTimers]
    exact (chooseWork_raises _).after hbank

theorem channelTicks_raises : Raises s (channelTicks s) := by
  have fold (cs : List (Fin 16)) : ∀ u : State, Raises u (cs.foldl (fun u c => channelTick c u) u) := by
    induction cs with
    | nil => exact .refl
    | cons c cs ih => exact fun u => (channelTick_raises u c).trans (ih _)
  exact (fold _ s).trans (chooseWork_raises _)

theorem view_endInterval : view (endInterval s) = view s := by
  unfold endInterval
  split <;> rfl

theorem view_stampTick : view (stampTick s) = view s := by
  unfold stampTick
  split <;> rfl

theorem tick_raises : Raises s (tick s) :=
  ((bankTick_raises _).trans (channelTicks_raises _)).after ((view_stampTick _).trans (view_endInterval s))

/-! ## Work on one entry -/

theorem contributionStep_raises (n : Fin 32) (dir : Direction) : Raises s (contributionStep n dir s) := by
  have htaken := takeLineCommand_raises s
  unfold contributionStep
  dsimp only
  split
  · exact .refl s
  · split
    case h_4 => exact htaken
    all_goals exact htaken.before (view_setContrib _ _ _ _)

theorem moveWithEdge_raises (n : Fin 32) (st : EntryState) (g : Edge) : Raises s (moveWithEdge n st g s) := by
  have hcapture (u : State) : view (captureHandOver n g u) = view u := by
    unfold captureHandOver
    dsimp only
    split
    · rfl
    · split <;> rfl
  exact ((contributionStep_raises _ n g.dir).before ((view_handOverIf _ _ _ _ _).trans (hcapture _))).after rfl

theorem transition_raises (n : Fin 32) (active : Bool) (v : Option Half) : Raises s (transition n active v s) := by
  rw [transition_eq]
  split
  · exact .of_view rfl
  · exact moveWithEdge_raises s n _ _

theorem handleEntry_raises (n : Fin 32) (input : EvalInput) : Raises s (handleEntry n input s) := by
  unfold handleEntry
  split
  · exact (transition_raises _ n _ _).after rfl
  · unfold handleFault
    dsimp only
    split
    · exact .of_view rfl
    · split
      · exact .of_view rfl
      · exact (transition_raises _ n _ _).after rfl
      · exact (transition_raises _ n _ _).after rfl

theorem serveQualification_raises (n : Fin 32) : Raises s (serveQualification n s) := by
  unfold serveQualification
  split
  · exact .of_view rfl
  · split
    · unfold qualificationExpiry
      dsimp only
      split
      · exact (moveWithEdge_raises _ n _ _).after rfl
      · exact (moveWithEdge_raises _ n _ _).after rfl
      all_goals exact .of_view rfl
    · exact .refl s

theorem serveShaping_raises (n : Fin 32) : Raises s (serveShaping n s) := by
  unfold serveShaping
  split
  · exact .of_view rfl
  · split
    · unfold shapingExpiry
      dsimp only
      split
      · exact (takeLineCommand_raises s).before (view_setContrib _ _ _ _)
      · exact (takeLineCommand_raises s).before (view_setContrib _ _ _ _)
      · exact .of_view rfl
    · exact .refl s

theorem view_withdraw (n : Fin 32) : view (withdraw n s) = view s := by
  unfold withdraw
  dsimp only
  split
  · exact view_setContrib _ _ _ _
  · rfl

theorem releaseEntry_raises (n : Fin 32) : Raises s (releaseEntry n s) :=
  moveWithEdge_raises s n _ _

/-! ## Work items -/

theorem handleQualification_raises (n : Fin 32) : Raises s (handleQualification n s) := by
  unfold handleQualification
  dsimp only
  split
  · exact (serveQualification_raises s n).before rfl
  · exact (serveQualification_raises s n).trans (comeFree_raises _)

theorem evaluationStep_raises : Raises s (evaluationStep s) := by
  unfold evaluationStep
  split
  · exact settleTaken_raises s _ _
  · split
    · exact comeFree_raises s
    · exact (handleEntry_raises s _ _).before rfl
  all_goals exact .refl s

theorem evaluationRest_raises (fuel : Nat) : Raises s (evaluationRest fuel s) := by
  induction fuel generalizing s with
  | zero => exact .refl s
  | succ fuel ih =>
    unfold evaluationRest
    split
    · exact (evaluationStep_raises s).trans (ih _)
    all_goals exact .refl s

theorem evaluationFinish_raises : Raises s (evaluationFinish s) := by
  unfold evaluationFinish
  split
  · exact (settleTaken_raises s _ _).trans (evaluationRest_raises _ 33)
  · exact evaluationRest_raises s 33
  all_goals exact .refl s

theorem releaseAllFrom_raises (k count : Nat) : Raises s (releaseAllFrom k count s) := by
  unfold releaseAllFrom
  split
  · exact (releaseEntry_raises s _).before rfl
  · exact (endService_raises _ _).after (by simp only [view])

theorem releaseAllStep_raises : Raises s (releaseAllStep s) := by
  unfold releaseAllStep
  split
  · split
    · exact releaseAllFrom_raises s 0 0
    · exact .refl s
  · exact releaseAllFrom_raises s _ _
  all_goals exact .refl s

theorem releaseAllRest_raises (fuel : Nat) : Raises s (releaseAllRest fuel s) := by
  induction fuel generalizing s with
  | zero => exact .refl s
  | succ fuel ih =>
    unfold releaseAllRest
    split
    · exact (releaseAllStep_raises s).trans (ih _)
    all_goals exact .refl s

/-! ## The queue and the sample port -/

/-- What the queue takes requests EVENTS, SEVERE or LOSS, and no more (R68, R69, R77, R78). -/
theorem takeRecord_raises (b : RecordBody) : Raises s (takeRecord b s) := by
  unfold takeRecord
  split
  · exact (requestIf_raises _ _ _).trans (requestIf_raises _ _ _) |>.after rfl
  · split
    · exact (request_raises .loss _).after rfl
    · split
      · exact ((request_raises .loss _).trans (requestIf_raises _ _ _)).after rfl
      · exact (request_raises .loss _).after rfl

theorem takeWaiting_raises : Raises s (takeWaiting s) := by
  have fold (ws : List Waiting) : ∀ u : State, Raises u (ws.foldl (fun u w => takeRecord w.body u) u) := by
    induction ws with
    | nil => exact .refl
    | cons w ws ih => exact fun u => (takeRecord_raises u w.body).trans (ih _)
  exact (fold _ _).after rfl

theorem takePortCommand_raises : Raises s (takePortCommand s) := by
  rcases takePortCommand_cases s with ⟨-, h⟩ | ⟨-, h⟩ <;> rw [h]
  · exact .refl s
  · exact complete_raises .ok rfl

theorem endFrame_raises : Raises s (endFrame s) := by
  unfold endFrame
  split
  · exact (requestIf_raises _ _ _).after rfl
  all_goals exact .of_view rfl

theorem takeOutcome_raises (o : ArrivalOutcome) : Raises s (takeOutcome o s) := by
  cases o with
  | accepted => exact .refl s
  | refusedOff | refusedSource => exact (request_raises .port _).after rfl

theorem writePortEnable_raises (b : Bool) : Raises s (writePortEnable b s) := by
  unfold writePortEnable
  split
  · exact .refl s
  · exact (takePortCommand_raises s).before rfl

/-! ## Host writes -/

theorem writeControl_raises (v : Byte) : Raises s (writeControl v s) :=
  (writeOe_raises s _).trans (writePortEnable_raises _ _)

/-- A CMD_OP write that is lost requests CMD_LOST (R169). -/
theorem writeCmdOp_raises (op : Byte) : Raises s (writeCmdOp op s) := by
  have hhand (c : Command) (u : State) : Raises u (handToOwner c u) := by
    unfold handToOwner
    split
    · exact chooseWork_raises u
    · split <;> exact .of_view rfl
  unfold writeCmdOp
  split
  · exact request_raises .cmdLost s
  · split
    · exact (hhand _ _).after rfl
    · exact complete_raises _ rfl

theorem writeInjTag_raises (v : Byte) : Raises s (writeInjTag v s) := by
  have harrival := takeArrival_raises s false (tagChannel v) s.inj.value (tagStatus v)
  unfold writeInjTag
  generalize takeArrival false (tagChannel v) s.inj.value (tagStatus v) s = r at harrival
  exact harrival.trans ((chooseWork_raises _).after rfl)

theorem writeWatermark_raises (v : Byte) : Raises s (writeWatermark v s) :=
  (requestIf_raises _ _ _).after rfl

theorem view_writeStaging (k : Fin 32) (v : Byte) : view (writeStaging k v s) = view s := by
  unfold writeStaging
  dsimp only
  split <;> rfl

end

/-! ## The bounds of a command -/

/-- R174 to R177: what command `c` can do to the interrupt unit, and whether it can begin or end power-on reset. -/
structure Bounds (c : Instr) (s t : State) : Prop where
  flags : s.intr.flags &&& t.intr.flags = s.intr.flags ∨ c = .powerOnReset ∨ (∃ x, c = .restart x)
    ∨ ∃ v, c = .intFlagsClear v ∨ c = .registerWrite 0x05 v
  mask : t.intr.mask = s.intr.mask ∨ c = .powerOnReset ∨ ∃ v, c = .intMaskWrite v ∨ c = .registerWrite 0x06 v
  inReset : t.inReset = s.inReset ∨ c = .powerOnReset ∨ c = .powerOnResetEnd

section
variable {c : Instr} {s t : State}

theorem Raises.bounds (h : Raises s t) : Bounds c s t :=
  ⟨.inl h.flags, .inl h.mask, .inl h.inReset⟩

/-- R163, R174, R175: a window write clears flags at INT_FLAGS and changes the mask at INT_MASK, only. -/
theorem writeWindow_bounds (a : Address) (v : Byte) (s : State) : Bounds (.registerWrite a v) s (writeWindow a v s) := by
  unfold writeWindow
  split
  · exact Raises.bounds (.of_view (view_writeStaging s _ v))
  split
  case h_1 => exact (writeControl_raises s v).bounds
  case h_2 h =>
    obtain rfl : a = 0x05 := BitVec.eq_of_toNat_eq h
    exact ⟨.inr (.inr (.inr ⟨v, .inr rfl⟩)), .inl rfl, .inl rfl⟩
  case h_3 h =>
    obtain rfl : a = 0x06 := BitVec.eq_of_toNat_eq h
    exact ⟨.inl (BitVec.and_self ..), .inr (.inr ⟨v, .inr rfl⟩), .inl rfl⟩
  case h_4 => exact (writeCmdOp_raises s v).bounds
  case h_7 => exact (writeWatermark_raises s v).bounds
  case h_10 => exact (writeInjTag_raises s v).bounds
  all_goals exact Raises.bounds (.of_view rfl)

/-- RESTART clears flags in the interrupt unit's part, and no part reaches the mask (R172, R176). -/
theorem restartPart_keeps (p : RestartPart) (s : State) :
    (restartPart p s).inReset = s.inReset ∧ (restartPart p s).intr.mask = s.intr.mask := by
  rcases restartPart_cases p s with h | ⟨-, -, -, h⟩ | ⟨out, ch, port, irq, rec, -, ⟨-, -, h⟩ | ⟨-, -, h⟩ | ⟨-, -, h⟩
    | ⟨-, -, -, -, -, h⟩ | ⟨-, -, -, -, -, -, h⟩ | ⟨-, -, -, -, -, -, h⟩⟩ <;> rw [h]
  · exact ⟨rfl, rfl⟩
  · simp only [restartEngine, and_self]
  · simp only [restartOutputs, and_self]
  · simp only [restartChannels, and_self]
  · exact ⟨rfl, rfl⟩
  · exact ⟨rfl, rfl⟩
  · have hqueue : Raises s (restartQueue s) := (takeWaiting_raises s).trans ((takeRecord_raises _ restartRecord).after rfl)
    exact ⟨hqueue.inReset, hqueue.mask⟩
  · have hend := endService_raises s .ok
    exact ⟨hend.inReset, hend.mask⟩

theorem restartAll_keeps (s : State) :
    (restartAll s).inReset = s.inReset ∧ (restartAll s).intr.mask = s.intr.mask := by
  have fold (ps : List RestartPart) : ∀ u : State, (ps.foldl (fun s p => restartPart p s) u).inReset = u.inReset
      ∧ (ps.foldl (fun s p => restartPart p s) u).intr.mask = u.intr.mask := by
    induction ps with
    | nil => exact fun _ => ⟨rfl, rfl⟩
    | cons p ps ih =>
      intro u
      obtain ⟨hreset, hmask⟩ := restartPart_keeps p u
      obtain ⟨hreset', hmask'⟩ := ih (restartPart p u)
      exact ⟨hreset'.trans hreset, hmask'.trans hmask⟩
  exact fold _ s

/-- An outcome that, where it is a next state, clears no flag. -/
def Quiet (s : State) (o : Host.Outcome State Fault Refusal) : Prop :=
  ∀ t : State, o = .next t → Raises s t

/-- An outcome that, where it is a next state, is within the bounds of command `c`. -/
def Within (c : Instr) (s : State) (o : Host.Outcome State Fault Refusal) : Prop :=
  ∀ t : State, o = .next t → Bounds c s t

theorem quiet_next (h : Raises s t) : Quiet s (.next t) := by
  rintro u ⟨⟩
  exact h

theorem within_next (h : Bounds c s t) : Within c s (.next t) := by
  rintro u ⟨⟩
  exact h

theorem Quiet.within {o : Host.Outcome State Fault Refusal} (h : Quiet s o) : Within c s o :=
  fun t ht => (h t ht).bounds

theorem quiet_nothing (s : State) : Quiet s (.next s) := quiet_next (.refl s)

/-- A service of the engine that ends with its completion. -/
theorem quiet_endService (r : Result) (h : view t = view s) : Quiet s (.next (endService r t)) :=
  quiet_next ((endService_raises t r).after h)

/-- A command that is served where it waits, and does nothing where it does not. -/
theorem quiet_ite {b : Bool} (h : Raises s t) : Quiet s (.next (if b then t else s)) := by
  cases b
  · exact quiet_nothing s
  · exact quiet_next h

/-- A write cycle within the bounds of its command. -/
theorem within_hostWrite {f : State → State} (hf : ∀ u : State, Bounds c u (f u)) :
    Within c s (.next (hostWrite f s)) := by
  refine within_next ?_
  rw [hostWrite_eq]
  split
  · exact (Raises.refl s).bounds
  · obtain ⟨hflags, hmask, hreset⟩ := hf { s with dataOut := none }
    exact ⟨hflags, hmask, hreset⟩

theorem quiet_hostRead {f : State → State} {b : Byte} (hf : view (f s) = view s) :
    Quiet s (.next (hostRead b f s)) := by
  refine quiet_next (.of_view ?_)
  rw [hostRead_eq]
  split
  · rfl
  · exact hf

end

/-! ## The commands -/

section
variable (s : State)

theorem execReadEntry_quiet : Quiet s (execReadEntry s) := by
  unfold execReadEntry
  split
  · split <;> exact quiet_endService _ rfl
  · exact quiet_nothing s

theorem execWriteEntry_quiet : Quiet s (execWriteEntry s) := by
  unfold execWriteEntry
  split
  · split
    · exact quiet_endService _ rfl
    split
    · exact quiet_endService _ rfl
    · split <;> exact quiet_endService _ rfl
  · exact quiet_nothing s

theorem execArm_quiet : Quiet s (execArm s) := by
  unfold execArm
  split
  · split
    · exact quiet_endService _ rfl
    dsimp only
    split
    · exact quiet_endService _ rfl
    · split <;> exact quiet_endService _ rfl
  · exact quiet_nothing s

theorem execDisarm_quiet : Quiet s (execDisarm s) := by
  unfold execDisarm
  split
  · split
    · exact quiet_endService _ rfl
    · split
      · exact quiet_endService _ rfl
      · exact quiet_endService _ (view_withdraw _ _)
  · exact quiet_nothing s

theorem execRelease_quiet : Quiet s (execRelease s) := by
  unfold execRelease
  split
  · split
    · exact quiet_endService _ rfl
    · split
      case h_2 => exact quiet_next ((releaseEntry_raises s _).trans (endService_raises _ _))
      all_goals exact quiet_endService _ rfl
  · exact quiet_nothing s

theorem execReleaseAll_quiet (x : Extent) : Quiet s (execReleaseAll x s) := by
  cases x with
  | advance => exact quiet_next (releaseAllStep_raises s)
  | finish => exact quiet_next ((releaseAllStep_raises s).trans (releaseAllRest_raises _ 32))

theorem execEnable_quiet : Quiet s (execEnable s) := by
  unfold execEnable
  split
  · split
    · exact quiet_endService _ rfl
    · split <;> exact quiet_endService _ rfl
  · exact quiet_nothing s

theorem execDisable_quiet : Quiet s (execDisable s) := by
  unfold execDisable
  split
  · split
    · exact quiet_endService _ rfl
    split
    · exact quiet_endService _ rfl
    · split <;> exact quiet_endService _ rfl
  · exact quiet_nothing s

theorem execPop_quiet : Quiet s (execPop s) := by
  unfold execPop
  split
  · split <;> exact quiet_next (complete_raises _ rfl)
  · exact quiet_nothing s

theorem execFlush_quiet : Quiet s (execFlush s) := by
  unfold execFlush
  split
  · exact quiet_next (complete_raises _ rfl)
  · exact quiet_nothing s

theorem execReadAcc_quiet : Quiet s (execReadAcc s) := by
  unfold execReadAcc
  split
  · exact quiet_nothing s
  · next h =>
    obtain ⟨-, rest, -, rfl⟩ := takeAccCommand_eq_some.mp h
    split <;> exact quiet_next (complete_raises _ rfl)

theorem execWriteAcc_quiet : Quiet s (execWriteAcc s) := by
  unfold execWriteAcc
  split
  · exact quiet_nothing s
  · next h =>
    obtain ⟨-, rest, -, rfl⟩ := takeAccCommand_eq_some.mp h
    split <;> exact quiet_next (complete_raises _ rfl)

theorem execCaptureStep_quiet : Quiet s (execCaptureStep s) := by
  unfold execCaptureStep
  split
  · exact quiet_next (.of_view rfl)
  all_goals exact quiet_nothing s

theorem execEvaluation_quiet (x : Extent) : Quiet s (execEvaluation x s) := by
  cases x with
  | advance => exact quiet_next (evaluationStep_raises s)
  | finish => exact quiet_next (evaluationFinish_raises s)

theorem execQualificationExpiryTaken_quiet : Quiet s (execQualificationExpiryTaken s) := by
  unfold execQualificationExpiryTaken
  split
  · exact quiet_next (handleQualification_raises s _)
  · exact quiet_next (comeFree_raises s)
  all_goals exact quiet_nothing s

theorem execShapingExpiryTaken_quiet : Quiet s (execShapingExpiryTaken s) := by
  unfold execShapingExpiryTaken
  split
  · exact quiet_next ((serveShaping_raises s _).trans (comeFree_raises _))
  all_goals exact quiet_nothing s

theorem execTickBy_quiet (x : TickExtent) : Quiet s (execTickBy x s) := by
  cases x with
  | whole => exact quiet_next (tick_raises s)
  | interval => exact quiet_next (.of_view (view_endInterval s))
  | timestamp => exact quiet_next (.of_view (view_stampTick s))
  | timerBank => exact quiet_next (bankTick_raises s)
  | channelUnit => exact quiet_next (channelTicks_raises s)

theorem execArrival_quiet : Quiet s (execArrival s) := by
  unfold execArrival
  split
  · exact quiet_nothing s
  · next a rest _ =>
    have harrival := takeArrival_raises { s with port := { s.port with delivered := rest } } true a.channel a.raw a.status
    generalize takeArrival true a.channel a.raw a.status _ = r at harrival
    refine quiet_next (.trans (t := r.2) (harrival.after rfl) ?_)
    exact (chooseWork_raises _).after rfl

theorem execArrivalOutcome_quiet : Quiet s (execArrivalOutcome s) := by
  unfold execArrivalOutcome
  split
  · exact quiet_nothing s
  · exact quiet_next ((takePortCommand_raises s).trans ((takeOutcome_raises _ _).after rfl))

theorem execFrameStart_quiet : Quiet s (execFrameStart s) := by
  unfold execFrameStart
  split
  · exact quiet_nothing s
  · split
    · exact quiet_next (.of_view rfl)
    · exact quiet_next ((takePortCommand_raises s).before rfl)

theorem execFrameEnd_quiet : Quiet s (execFrameEnd s) := by
  unfold execFrameEnd
  split
  · exact quiet_nothing s
  · split
    · exact quiet_next (.of_view rfl)
    · exact quiet_next ((takePortCommand_raises s).trans ((endFrame_raises _).after rfl))

theorem execSclkRisingEdge_quiet (sdat : Bool) : Quiet s (execSclkRisingEdge sdat s) := by
  unfold execSclkRisingEdge
  split
  · exact quiet_nothing s
  · exact quiet_next ((takePortCommand_raises s).before rfl)

theorem execRecordSubmission_quiet (who : Submitter) : Quiet s (execRecordSubmission who s) := by
  unfold execRecordSubmission
  split
  · exact quiet_next ((takeRecord_raises _ _).after rfl)
  · exact quiet_nothing s

theorem execShutoffAssert_quiet : Quiet s (execShutoffAssert s) := by
  unfold execShutoffAssert
  split
  · exact quiet_nothing s
  · split
    · exact quiet_next (.of_view rfl)
    · exact quiet_next ((takeLineCommand_raises s).trans (assertShutoff_raises _))

theorem execRestart_within (x : RestartExtent) : Within (.restart x) s (execRestart x s) := by
  have hbounds {t : State} (h : t.inReset = s.inReset ∧ t.intr.mask = s.intr.mask) : Bounds (.restart x) s t :=
    ⟨.inr (.inr (.inl ⟨x, rfl⟩)), .inl h.2, .inl h.1⟩
  cases x with
  | finish => exact within_next (hbounds (restartAll_keeps s))
  | part p => exact within_next (hbounds (restartPart_keeps p s))

/-- What every command can do to the interrupt unit, and whether it begins or ends power-on reset. -/
theorem exec_bounds (c : Instr) : Within c s (exec c s) := by
  have quietWrite {d : Instr} {f : State → State} (h : ∀ u : State, Raises u (f u)) :
      Within d s (.next (hostWrite f s)) :=
    within_hostWrite fun u => (h u).bounds
  cases c with
  | readEntry => exact (execReadEntry_quiet s).within
  | writeEntry => exact (execWriteEntry_quiet s).within
  | arm => exact (execArm_quiet s).within
  | disarm => exact (execDisarm_quiet s).within
  | release => exact (execRelease_quiet s).within
  | releaseAll x => exact (execReleaseAll_quiet s x).within
  | readChannel => exact Quiet.within (quiet_ite (serveReadChannel_raises s))
  | writeChannel => exact Quiet.within (quiet_ite (serveWriteChannel_raises s))
  | enable => exact (execEnable_quiet s).within
  | disable => exact (execDisable_quiet s).within
  | readLine => exact Quiet.within (quiet_ite (serveReadLine_raises s))
  | writeLine => exact Quiet.within (quiet_ite (serveWriteLine_raises s))
  | silence => exact Quiet.within (quiet_ite (serveSilence_raises s))
  | override => exact Quiet.within (quiet_ite (serveOverride_raises s))
  | resume => exact Quiet.within (quiet_ite (serveResume_raises s))
  | pop => exact (execPop_quiet s).within
  | flush => exact (execFlush_quiet s).within
  | readAcc => exact (execReadAcc_quiet s).within
  | writeAcc => exact (execWriteAcc_quiet s).within
  | clearPortCounts => exact Quiet.within (quiet_ite (complete_raises _ rfl))
  | restart x => exact execRestart_within s x
  | badOpcode op | cmdOpWriteLost op | commandTaken op => exact quietWrite fun u => writeCmdOp_raises u op
  | evaluation x => exact (execEvaluation_quiet s x).within
  | captureStep => exact (execCaptureStep_quiet s).within
  | qualificationTimerExpiry n | shapingTimerExpiry n => exact Quiet.within (quiet_ite (bankTick_raises s))
  | qualificationExpiryTaken => exact (execQualificationExpiryTaken_quiet s).within
  | shapingExpiryTaken => exact (execShapingExpiryTaken_quiet s).within
  | tickBy x => exact (execTickBy_quiet s x).within
  | freshnessExpiry c => exact Quiet.within (quiet_ite ((channelTick_raises s c).trans (chooseWork_raises _)))
  | arrival => exact (execArrival_quiet s).within
  | arrivalOutcome => exact (execArrivalOutcome_quiet s).within
  | frameStart => exact (execFrameStart_quiet s).within
  | frameEnd => exact (execFrameEnd_quiet s).within
  | injTagWrite v => exact quietWrite fun u => writeInjTag_raises u v
  | injValueLowWrite v | injValueHighWrite v | tbdivLowWrite v | tbdivHighWrite v =>
    exact quietWrite fun _ => .of_view rfl
  | oeChange v | portEnChange v => exact quietWrite fun u => writeControl_raises u v
  | watermarkWrite v => exact quietWrite fun u => writeWatermark_raises u v
  | intFlagsClear v =>
    exact within_hostWrite fun _ => ⟨.inr (.inr (.inr ⟨v, .inl rfl⟩)), .inl rfl, .inl rfl⟩
  | intMaskWrite v =>
    exact within_hostWrite fun _ => ⟨.inl (BitVec.and_self ..), .inr (.inr ⟨v, .inl rfl⟩), .inl rfl⟩
  | headLatchLoad | timestampLatchLoad | bitmapLatchLoad b => exact Quiet.within (quiet_hostRead rfl)
  | registerWrite a v => exact within_hostWrite (writeWindow_bounds a v)
  | recordSubmission who => exact (execRecordSubmission_quiet s who).within
  | shutoffAssert => exact (execShutoffAssert_quiet s).within
  | shutoffRelease => exact Quiet.within (quiet_ite ((takeLineCommand_raises s).before rfl))
  | powerOnReset => exact within_next ⟨.inr (.inl rfl), .inr (.inl rfl), .inr (.inl rfl)⟩
  | powerOnResetEnd =>
    refine within_next ⟨.inl ?_, .inl ?_, .inr (.inr rfl)⟩ <;> split
    · exact BitVec.and_self ..
    · exact BitVec.and_self ..
    · rfl
    · rfl
  | sclkRisingEdge sdat => exact (execSclkRisingEdge_quiet s sdat).within

end

/-- Settles O18: by the bounds of each command (`exec_bounds`). -/
theorem flagsAreClearedOnlyByHostOrResets : Obligations.FlagsAreClearedOnlyByHostOrResets := by
  intro c s t h hreset
  obtain ⟨hflags, hmask, -⟩ := exec_bounds s c t h
  refine ⟨fun hhost hrestart => hflags.resolve_right ?_, fun hhost => hmask.resolve_right ?_⟩
  · rintro (hc | ⟨x, hc⟩ | ⟨v, hc⟩)
    · exact hreset hc
    · exact hrestart x hc
    · exact hc.elim (hhost v).1 (hhost v).2
  · rintro (hc | ⟨v, hc⟩)
    · exact hreset hc
    · exact hc.elim (hhost v).1 (hhost v).2

end Sys2Proof.InterruptRequests
end

section
/-! PROOFS. Power-on reset lasts (O13): at the power-on values no command is PENDING, the engine is free, and no claim,
item, tick, arrival, outcome, capture event or submission waits; and the window takes no cycle. So every command leaves
the part as it is, but for the levels of SFRM and SHUTOFF# and the end of the reset itself. -/

namespace Sys2Proof.InReset

open Sys2Proof.Machine Sys2Proof.Safety Sys2Proof.Claims Sys2Proof.EngineLaws Sys2Proof.Choosing Sys2Proof.PowerOn

/-- Power-on reset lasts, with every block at its power-on values. -/
structure Resting (s : State) : Prop where
  inReset : s.inReset = true
  values : s = powerOn s

section
variable {s : State} (h : Resting s)
include h

/-! ## Nothing waits -/

theorem engine_free : s.engine = .free := by
  rw [h.values]
  rfl

theorem not_pending : s.cmd.state ≠ .pending := by
  rw [h.values]
  nofun

theorem channel_powerOn (c : Fin 16) : s.channels[c] = Channel.powerOn := by
  rw [h.values]
  exact powerOn_channel s c

theorem due_channel (c : Fin 16) : s.due.channels[c] = 0 := by
  rw [h.values]
  exact powerOn_due s c

theorem due_timestamp : s.due.timestamp = 0 := by
  rw [h.values]
  rfl

theorem due_timerBank : s.due.timerBank = 0 := by
  rw [h.values]
  rfl

theorem captures_nil : s.captures = [] := by
  rw [h.values]
  rfl

theorem waiting_nil : s.waiting = [] := by
  rw [h.values]
  rfl

theorem delivered_nil : s.port.delivered = [] := by
  rw [h.values]
  rfl

theorem outcomes_nil : s.port.outcomes = [] := by
  rw [h.values]
  rfl

theorem not_ready (c : Command) : ready c s = false :=
  ready_of_not_pending (not_pending h) c

theorem not_tableReady (c : Command) : tableReady c s = false := by
  rw [tableReady, not_ready h, Bool.and_false]

/-! ## Nothing happens -/

theorem takeLineCommand_resting : takeLineCommand s = s := by
  simp only [takeLineCommand, not_ready h, Bool.false_eq_true, if_false]

theorem bankTick_resting : bankTick s = s := by
  rw [bankTick, if_pos (due_timerBank h)]

theorem stampTick_resting : stampTick s = s := by
  rw [stampTick, if_pos (due_timestamp h)]

theorem endInterval_resting : endInterval s = s := by
  rw [endInterval, if_pos h.inReset]

theorem chooseWork_resting : chooseWork s = s := by
  have hclaim (n : Fin 32) : NoClaim n s := by
    rw [h.values]
    exact powerOn_noClaim n s
  refine chooseWork_nothing ?_ fun c => ?_
  · rw [nextClaim_table hclaim, tableWaiting_of_not_pending (not_pending h), if_neg Bool.false_ne_true]
  · rw [channel_powerOn h]
    rfl

theorem channelTick_resting (c : Fin 16) : channelTick c s = s := by
  rw [channelTick, if_pos (due_channel h c)]

theorem channelTicks_resting : channelTicks s = s := by
  have fold (cs : List (Fin 16)) : cs.foldl (fun u c => channelTick c u) s = s := by
    induction cs with
    | nil => rfl
    | cons c cs ih => rw [List.foldl_cons, channelTick_resting h, ih]
  rw [channelTicks, fold, chooseWork_resting h]

theorem restartPart_resting (p : RestartPart) : restartPart p s = s := by
  simp only [restartPart, engine_free h]

theorem restartAll_resting : restartAll s = s := by
  have fold (ps : List RestartPart) : ps.foldl (fun s p => restartPart p s) s = s := by
    induction ps with
    | nil => rfl
    | cons p ps ih => rw [List.foldl_cons, restartPart_resting h, ih]
  exact fold _

/-- A CLKIN period is no event in power-on reset (R161). -/
theorem clkin_resting : clkin s = s := by
  rw [clkin, if_pos h.inReset]

/-! ## Commands -/

/-- A command that the engine has not taken does nothing (R34, R58). -/
theorem tableCommand_resting (c : Command) (o : Host.Outcome State Fault Refusal) :
    (if tableReady c s = true then o else .next s) = .next s := by
  rw [not_tableReady h, if_neg Bool.false_ne_true]

/-- A command that is not PENDING does nothing. -/
theorem ownerCommand_resting (c : Command) (t : State) :
    (Host.Outcome.next (if ready c s = true then t else s) : Host.Outcome State Fault Refusal) = .next s := by
  rw [not_ready h, if_neg Bool.false_ne_true]

theorem write_resting (f : State → State) :
    (Host.Outcome.next (hostWrite f s) : Host.Outcome State Fault Refusal) = .next s := by
  rw [hostWrite_inReset h.inReset]

theorem read_resting (b : Byte) (f : State → State) :
    (Host.Outcome.next (hostRead b f s) : Host.Outcome State Fault Refusal) = .next s := by
  rw [hostRead_inReset h.inReset]

theorem accCommand_resting (c : Command) : takeAccCommand c s = none := by
  rw [takeAccCommand, captures_nil h]

theorem execReleaseAll_resting (x : Extent) : execReleaseAll x s = .next s := by
  have hstep : releaseAllStep s = s := by simp only [releaseAllStep, engine_free h]
  have hrest (fuel : Nat) : releaseAllRest fuel s = s := by
    cases fuel with
    | zero => rfl
    | succ fuel => simp only [releaseAllRest, engine_free h]
  cases x with
  | advance => rw [execReleaseAll, hstep]
  | finish => rw [execReleaseAll, hstep, hrest]

theorem execTickBy_resting (x : TickExtent) : execTickBy x s = .next s := by
  cases x with
  | whole => rw [execTickBy, tick, endInterval_resting h, stampTick_resting h, bankTick_resting h, channelTicks_resting h]
  | interval => rw [execTickBy, endInterval_resting h]
  | timestamp => rw [execTickBy, stampTick_resting h]
  | timerBank => rw [execTickBy, bankTick_resting h]
  | channelUnit => rw [execTickBy, channelTicks_resting h]

/-- What a command leaves of a part in power-on reset (R177): the part as it is, another level at an input pin, power-on
reset anew, or its end. -/
theorem exec_resting (c : Instr) : exec c s = .next s
    ∨ (∃ level : Bool, exec c s = .next { s with sfrm := level })
    ∨ (∃ level : Bool, exec c s = .next { s with shutoff := level })
    ∨ c = .powerOnReset ∨ c = .powerOnResetEnd := by
  cases c with
  | powerOnReset | powerOnResetEnd => simp
  | frameStart =>
    by_cases hlevel : s.sfrm = true
    · exact .inl (if_pos hlevel)
    · exact .inr (.inl ⟨true, (if_neg hlevel).trans (if_pos h.inReset)⟩)
  | frameEnd =>
    by_cases hlevel : (!s.sfrm) = true
    · exact .inl (if_pos hlevel)
    · exact .inr (.inl ⟨false, (if_neg hlevel).trans (if_pos h.inReset)⟩)
  | shutoffAssert =>
    by_cases hlevel : s.shutoff = true
    · exact .inl (if_pos hlevel)
    · exact .inr (.inr (.inl ⟨true, (if_neg hlevel).trans (if_pos h.inReset)⟩))
  | shutoffRelease =>
    by_cases hlevel : s.shutoff = true
    · refine .inr (.inr (.inl ⟨false, ?_⟩))
      rw [exec, execShutoffRelease, if_pos hlevel, takeLineCommand_resting h]
    · exact .inl (congrArg _ (if_neg hlevel))
  | readEntry | writeEntry | arm | disarm | release | enable | disable => exact .inl (tableCommand_resting h _ _)
  | readChannel | writeChannel | readLine | writeLine | silence | override | resume | clearPortCounts =>
    exact .inl (ownerCommand_resting h _ _)
  | pop => exact .inl (if_neg (Bool.eq_false_iff.mp (not_ready h .pop)))
  | flush => exact .inl (if_neg (Bool.eq_false_iff.mp (not_ready h .flush)))
  | releaseAll x => exact .inl (execReleaseAll_resting h x)
  | readAcc => exact .inl (by rw [exec, execReadAcc, accCommand_resting h])
  | writeAcc => exact .inl (by rw [exec, execWriteAcc, accCommand_resting h])
  | captureStep => exact .inl (by rw [exec, execCaptureStep, captures_nil h])
  | restart x =>
    cases x with
    | finish => exact .inl (congrArg _ (restartAll_resting h))
    | part p => exact .inl (congrArg _ (restartPart_resting h p))
  | evaluation x =>
    cases x with
    | advance => exact .inl (by simp only [exec, execEvaluation, evaluationStep, engine_free h])
    | finish => exact .inl (by simp only [exec, execEvaluation, evaluationFinish, engine_free h])
  | qualificationExpiryTaken => exact .inl (by simp only [exec, execQualificationExpiryTaken, engine_free h])
  | shapingExpiryTaken => exact .inl (by simp only [exec, execShapingExpiryTaken, engine_free h])
  | qualificationTimerExpiry n =>
    exact .inl (by rw [exec, execQualificationTimerExpiry, bankTick_resting h, ite_self])
  | shapingTimerExpiry n => exact .inl (by rw [exec, execShapingTimerExpiry, bankTick_resting h, ite_self])
  | tickBy x => exact .inl (execTickBy_resting h x)
  | freshnessExpiry c =>
    refine .inl ?_
    rw [exec, execFreshnessExpiry, channelTick_resting h, chooseWork_resting h, ite_self]
  | arrival => exact .inl (by rw [exec, execArrival, delivered_nil h])
  | arrivalOutcome => exact .inl (by rw [exec, execArrivalOutcome, outcomes_nil h])
  | recordSubmission who => exact .inl (by rw [exec, execRecordSubmission, nextSubmission, waiting_nil h]; rfl)
  | sclkRisingEdge sdat => exact .inl (congrArg _ (if_pos h.inReset))
  | badOpcode v | cmdOpWriteLost v | commandTaken v | injTagWrite v | injValueLowWrite v | injValueHighWrite v
  | tbdivLowWrite v | tbdivHighWrite v | oeChange v | portEnChange v | watermarkWrite v | intFlagsClear v
  | intMaskWrite v => exact .inl (write_resting h _)
  | registerWrite a v => exact .inl (write_resting h _)
  | headLatchLoad | timestampLatchLoad | bitmapLatchLoad b => exact .inl (read_resting h _ _)

end

/-! ## The law -/

/-- A command in power-on reset leaves the power-on values. -/
theorem resetLaw_exec_resting {c : Instr} {s t : State} (h : Resting s) (hexec : exec c s = .next t) : ResetLaw t := by
  intro ht
  rcases exec_resting h c with e | ⟨level, e⟩ | ⟨level, e⟩ | rfl | rfl
  · obtain rfl := Host.Outcome.next.inj (hexec.symm.trans e)
    exact h.values
  · obtain rfl := Host.Outcome.next.inj (hexec.symm.trans e)
    exact congrArg (fun u : State => { u with sfrm := level }) h.values
  · obtain rfl := Host.Outcome.next.inj (hexec.symm.trans e)
    exact congrArg (fun u : State => { u with shutoff := level }) h.values
  · cases hexec
    rfl
  · have hend : exec .powerOnResetEnd s = .next { s with inReset := false, timebase := s.timebase.newInterval } :=
      congrArg _ (if_pos h.inReset)
    obtain rfl := Host.Outcome.next.inj (hexec.symm.trans hend)
    cases ht

/-- Outside power-on reset only POWER_ON_RESET begins it. -/
theorem resetLaw_exec_running {c : Instr} {s t : State} (hs : s.inReset = false) (hexec : exec c s = .next t) :
    ResetLaw t := by
  intro ht
  have hend : c = .powerOnResetEnd → t = s := by
    rintro rfl
    exact (Host.Outcome.next.inj hexec).symm.trans (if_neg (Bool.eq_false_iff.mp hs))
  rcases (InterruptRequests.exec_bounds s c t hexec).inReset with h | rfl | h
  · exact absurd (ht.symm.trans (h.trans hs)) nofun
  · cases hexec
    rfl
  · exact absurd (ht.symm.trans ((congrArg State.inReset (hend h)).trans hs)) nofun

/-- An idle step neither begins nor ends power-on reset. -/
theorem clkin_inReset (s : State) : (clkin s).inReset = s.inReset := by
  unfold clkin
  split
  · rfl
  · split
    · exact (InterruptRequests.tick_raises s).inReset
    · rfl

/-- Settles O13: by cases on whether the part is in power-on reset before the step. -/
theorem stepKeepsResetLaw : Obligations.StepKeepsResetLaw := by
  intro s t hs hstep
  unfold step at hstep
  cases hr : s.inReset with
  | true =>
    have hresting : Resting s := ⟨hr, hs hr⟩
    split at hstep
    · rw [clkin_resting hresting] at hstep
      cases hstep
      exact hs
    · next c rest _ =>
      refine resetLaw_exec_resting (s := { s with pending := rest }) ⟨hr, ?_⟩ hstep
      exact congrArg (fun u : State => { u with pending := rest }) (hs hr)
  | false =>
    split at hstep
    · cases hstep
      exact fun ht => absurd (ht.symm.trans ((clkin_inReset s).trans hr)) nofun
    · next c rest _ => exact resetLaw_exec_running (s := { s with pending := rest }) hr hstep

end Sys2Proof.InReset
end

section
/-! PROOFS. The machine as a whole (O1, O3, O4). A step is the command at the front of the queue. No operation reaches
the queue of commands (one lemma for each, tagged for `simp`, in the order of the blocks), and no command is refused or
ends in a fault: every one answers a next state with that queue (`exec_answers`). The opcodes name their commands. -/

namespace Sys2Proof.Answers

open Sys2Proof.Machine

/-- Settles O1: by the branch of a step whose queue has a front. -/
theorem stepRunsFrontCommand : Obligations.StepRunsFrontCommand := by
  intro c rest s hfront
  rw [step, hfront]

/-- Settles O4: by the opcode of each command, and by the command of each opcode. -/
theorem opcodesNameTheirCommands : Obligations.OpcodesNameTheirCommands :=
  ⟨Edges.decodeOpcode_encodeOpcode, fun _ _ => Choosing.encodeOpcode_of_decode⟩

/-! ## Service, and the units that take a command before an event -/

@[simp] theorem requestIf_pending (b : Bool) (f : Flag) (s : State) : (requestIf b f s).pending = s.pending := by
  rw [requestIf_eq]

@[simp] theorem endService_pending (r : Result) (s : State) : (endService r s).pending = s.pending := by
  rw [endService, comeFree_pending, complete_pending]

@[simp] theorem takeLineCommand_pending (s : State) : (takeLineCommand s).pending = s.pending := by
  rw [takeLineCommand_work s]

@[simp] theorem takeChannelCommand_pending (c : Fin 16) (s : State) : (takeChannelCommand c s).pending = s.pending := by
  rw [takeChannelCommand_event c s]

@[simp] theorem takePortCommand_pending (s : State) : (takePortCommand s).pending = s.pending := by
  rcases takePortCommand_cases s with ⟨-, h⟩ | ⟨-, h⟩ <;> rw [h]
  rfl

/-! ## The output unit -/

@[simp] theorem updateWant_pending (loose : Bool) (l : Fin 16) (s : State) :
    (updateWant loose l s).pending = s.pending := by
  rw [updateWant_frame loose l s]

@[simp] theorem storeLine_pending (l : Fin 16) (p : LineProposal) (s : State) :
    (storeLine l p s).pending = s.pending := by
  rw [OutputLaws.storeLine_frame]

@[simp] theorem serveReadLine_pending (s : State) : (serveReadLine s).pending = s.pending := by
  unfold serveReadLine
  split <;> simp

@[simp] theorem serveWriteLine_pending (s : State) : (serveWriteLine s).pending = s.pending := by
  unfold serveWriteLine
  dsimp only
  split
  · simp
  · split <;> simp

@[simp] theorem serveSilence_pending (s : State) : (serveSilence s).pending = s.pending := by
  unfold serveSilence
  split
  · simp
  · split <;> simp

@[simp] theorem serveOverride_pending (s : State) : (serveOverride s).pending = s.pending := by
  unfold serveOverride
  split
  · simp
  · split <;> simp

@[simp] theorem serveResume_pending (s : State) : (serveResume s).pending = s.pending := by
  unfold serveResume
  split <;> simp

@[simp] theorem assertShutoff_pending (s : State) : (assertShutoff s).pending = s.pending := by
  simp [assertShutoff]

@[simp] theorem writeOe_pending (b : Bool) (s : State) : (writeOe b s).pending = s.pending := by
  unfold writeOe
  split <;> simp

/-! ## The channel unit, the sample port, the queue -/

@[simp] theorem serveReadChannel_pending (s : State) : (serveReadChannel s).pending = s.pending := by
  unfold serveReadChannel
  split <;> simp

@[simp] theorem serveWriteChannel_pending (s : State) : (serveWriteChannel s).pending = s.pending := by
  unfold serveWriteChannel
  split
  · simp
  split
  · simp
  · split <;> simp

@[simp] theorem takeArrival_pending (fromPort : Bool) (c : Fin 16) (raw : Half) (status : SampleStatus) (s : State) :
    (takeArrival fromPort c raw status s).2.pending = s.pending := by
  rw [takeArrival_event fromPort c raw status s]

@[simp] theorem channelTick_pending (c : Fin 16) (s : State) : (channelTick c s).pending = s.pending := by
  rw [channelTick_event c s]

@[simp] theorem settleTaken_pending (c : Fin 16) (item : Item) (s : State) :
    (settleTaken c item s).pending = s.pending := by
  have hsettle : (settle c item (takeChannelCommand c s)).2.pending = (takeChannelCommand c s).pending := by
    rw [settle_work]
  exact hsettle.trans (takeChannelCommand_pending c s)

@[simp] theorem endFrame_pending (s : State) : (endFrame s).pending = s.pending := by
  unfold endFrame
  split <;> simp

@[simp] theorem takeOutcome_pending (o : ArrivalOutcome) (s : State) : (takeOutcome o s).pending = s.pending := by
  cases o <;> rfl

@[simp] theorem writePortEnable_pending (b : Bool) (s : State) : (writePortEnable b s).pending = s.pending := by
  unfold writePortEnable
  split <;> simp

@[simp] theorem takeRecord_pending (b : RecordBody) (s : State) : (takeRecord b s).pending = s.pending := by
  obtain ⟨_, _, h⟩ := takeRecord_frame b s
  rw [h]

@[simp] theorem takeWaiting_pending (s : State) : (takeWaiting s).pending = s.pending := by
  obtain ⟨_, _, h⟩ := takeWaiting_frame s
  rw [h]

/-! ## Ticks -/

@[simp] theorem endInterval_pending (s : State) : (endInterval s).pending = s.pending := by
  unfold endInterval
  split <;> rfl

@[simp] theorem stampTick_pending (s : State) : (stampTick s).pending = s.pending := by
  unfold stampTick
  split <;> rfl

@[simp] theorem bankTick_pending (s : State) : (bankTick s).pending = s.pending := by
  rcases bankTick_cases s with ⟨-, h⟩ | ⟨-, h⟩ <;> rw [h]
  rw [chooseWork_pending, bankTimers_frame]

@[simp] theorem channelTicks_pending (s : State) : (channelTicks s).pending = s.pending := by
  obtain ⟨t, ht, h⟩ := channelTicks_eq s
  rw [h, chooseWork_pending, ht]

@[simp] theorem tick_pending (s : State) : (tick s).pending = s.pending := by
  rw [tick, channelTicks_pending, bankTick_pending, stampTick_pending, endInterval_pending]

/-! ## The engine -/

/-- Work on one entry does not reach the queue of commands. -/
theorem pending_of_entryWork {n : Fin 32} {s t : State} (h : EntryWork n s t) : t.pending = s.pending := by
  rw [h.1]

@[simp] theorem releaseEntry_pending (n : Fin 32) (s : State) : (releaseEntry n s).pending = s.pending :=
  pending_of_entryWork (releaseEntry_work n s)

@[simp] theorem withdraw_pending (n : Fin 32) (s : State) : (withdraw n s).pending = s.pending :=
  pending_of_entryWork (withdraw_work n s)

@[simp] theorem handleEntry_pending (n : Fin 32) (input : EvalInput) (s : State) :
    (handleEntry n input s).pending = s.pending :=
  pending_of_entryWork (handleEntry_work n input s)

@[simp] theorem serveQualification_pending (n : Fin 32) (s : State) : (serveQualification n s).pending = s.pending := by
  unfold serveQualification
  split
  · rfl
  · split
    · exact pending_of_entryWork (qualificationExpiry_work n s)
    · rfl

@[simp] theorem serveShaping_pending (n : Fin 32) (s : State) : (serveShaping n s).pending = s.pending := by
  unfold serveShaping
  split
  · rfl
  · split
    · exact pending_of_entryWork (shapingExpiry_work n s)
    · rfl

@[simp] theorem handleQualification_pending (n : Fin 32) (s : State) :
    (handleQualification n s).pending = s.pending := by
  unfold handleQualification
  dsimp only
  split <;> simp

@[simp] theorem evaluationStep_pending (s : State) : (evaluationStep s).pending = s.pending := by
  unfold evaluationStep
  split
  · simp
  · split <;> simp
  all_goals rfl

@[simp] theorem evaluationRest_pending (fuel : Nat) (s : State) : (evaluationRest fuel s).pending = s.pending := by
  induction fuel generalizing s with
  | zero => rfl
  | succ fuel ih =>
    unfold evaluationRest
    split
    · rw [ih, evaluationStep_pending]
    all_goals rfl

@[simp] theorem evaluationFinish_pending (s : State) : (evaluationFinish s).pending = s.pending := by
  unfold evaluationFinish
  split <;> simp

@[simp] theorem releaseAllFrom_pending (k count : Nat) (s : State) :
    (releaseAllFrom k count s).pending = s.pending := by
  unfold releaseAllFrom
  split <;> simp

@[simp] theorem releaseAllStep_pending (s : State) : (releaseAllStep s).pending = s.pending := by
  unfold releaseAllStep
  split
  · split <;> simp
  · simp
  all_goals rfl

@[simp] theorem releaseAllRest_pending (fuel : Nat) (s : State) : (releaseAllRest fuel s).pending = s.pending := by
  induction fuel generalizing s with
  | zero => rfl
  | succ fuel ih =>
    unfold releaseAllRest
    split
    · rw [ih, releaseAllStep_pending]
    all_goals rfl

/-! ## RESTART -/

@[simp] theorem restartPart_pending (p : RestartPart) (s : State) : (restartPart p s).pending = s.pending := by
  rcases restartPart_cases p s with h | ⟨-, -, -, h⟩ | ⟨_, _, _, _, _, -, ⟨-, -, h⟩ | ⟨-, -, h⟩ | ⟨-, -, h⟩
    | ⟨-, -, -, -, -, h⟩ | ⟨-, -, -, -, -, -, h⟩ | ⟨-, -, -, -, -, -, h⟩⟩ <;> rw [h]
  · rw [restartEngine]
  · rw [restartOutputs]
  · rw [restartChannels]
  · rw [modPort]
  · rw [restartInterrupts]
  · simp [restartQueue]
  · rw [endService_pending]

@[simp] theorem restartAll_pending (s : State) : (restartAll s).pending = s.pending := by
  simp only [restartAll, List.foldl_cons, List.foldl_nil, restartPart_pending]

/-! ## Host cycles -/

/-- A write cycle whose effect leaves the queue of commands alone. -/
theorem hostWrite_pending {f : State → State} (hf : ∀ u : State, (f u).pending = u.pending) (s : State) :
    (hostWrite f s).pending = s.pending := by
  rw [hostWrite_eq]
  split
  · rfl
  · exact hf _

/-- A read cycle whose latch load leaves the queue of commands alone. -/
theorem hostRead_pending {f : State → State} (hf : ∀ u : State, (f u).pending = u.pending) (b : Byte) (s : State) :
    (hostRead b f s).pending = s.pending := by
  rw [hostRead_eq]
  split
  · rfl
  · exact hf s

@[simp] theorem writeControl_pending (v : Byte) (s : State) : (writeControl v s).pending = s.pending := by
  rw [writeControl, writePortEnable_pending, writeOe_pending]

@[simp] theorem handToOwner_pending (c : Command) (s : State) : (handToOwner c s).pending = s.pending := by
  unfold handToOwner
  split
  · simp
  · split <;> rfl

/-- A CMD_OP write fills the command registers; the queue of commands is the model's own. -/
@[simp] theorem writeCmdOp_pending (op : Byte) (s : State) : (writeCmdOp op s).pending = s.pending := by
  unfold writeCmdOp
  split
  · rfl
  · split
    · rw [handToOwner_pending, takeCommand]
    · rfl

@[simp] theorem writeInjTag_pending (v : Byte) (s : State) : (writeInjTag v s).pending = s.pending := by
  rw [writeInjTag, chooseWork_pending]
  exact takeArrival_pending _ _ _ _ s

@[simp] theorem writeStaging_pending (k : Fin 32) (v : Byte) (s : State) :
    (writeStaging k v s).pending = s.pending := by
  unfold writeStaging
  dsimp only
  split <;> rfl

@[simp] theorem writeWatermark_pending (v : Byte) (s : State) : (writeWatermark v s).pending = s.pending := by
  rw [writeWatermark, requestIf_pending]

@[simp] theorem writeWindow_pending (a : Address) (v : Byte) (s : State) : (writeWindow a v s).pending = s.pending := by
  unfold writeWindow
  split
  · exact writeStaging_pending _ v s
  split
  case h_1 => exact writeControl_pending v s
  case h_4 => exact writeCmdOp_pending v s
  case h_7 => exact writeWatermark_pending v s
  case h_10 => exact writeInjTag_pending v s
  all_goals rfl

/-! ## Commands -/

/-- The outcome is a next state, with the queue of commands of `s`: neither a fault nor a refusal. -/
def AnswersNext (s : State) (o : Host.Outcome State Fault Refusal) : Prop :=
  ∃ t : State, o = .next t ∧ t.pending = s.pending

@[simp] theorem answers_next {s t : State} : AnswersNext s (.next t) ↔ t.pending = s.pending := by
  simp [AnswersNext]

/-- A command that is served where it waits, and does nothing where it does not. -/
theorem answers_ite {s t : State} {b : Bool} (h : t.pending = s.pending) :
    AnswersNext s (.next (if b then t else s)) := by
  cases b
  · exact answers_next.mpr rfl
  · exact answers_next.mpr h

theorem answers_hostWrite {f : State → State} {s : State} (hf : ∀ u : State, (f u).pending = u.pending) :
    AnswersNext s (.next (hostWrite f s)) :=
  answers_next.mpr (hostWrite_pending hf s)

theorem answers_hostRead {f : State → State} {b : Byte} {s : State} (hf : ∀ u : State, (f u).pending = u.pending) :
    AnswersNext s (.next (hostRead b f s)) :=
  answers_next.mpr (hostRead_pending hf b s)

section
variable (s : State)

theorem execReadEntry_answers : AnswersNext s (execReadEntry s) := by
  unfold execReadEntry
  split
  · split <;> simp
  · simp

theorem execWriteEntry_answers : AnswersNext s (execWriteEntry s) := by
  unfold execWriteEntry
  split
  · split
    · simp
    split
    · simp
    · split <;> simp
  · simp

theorem execArm_answers : AnswersNext s (execArm s) := by
  unfold execArm
  split
  · split
    · simp
    dsimp only
    split
    · simp
    · split <;> simp
  · simp

theorem execDisarm_answers : AnswersNext s (execDisarm s) := by
  unfold execDisarm
  split
  · split
    · simp
    · split <;> simp
  · simp

theorem execRelease_answers : AnswersNext s (execRelease s) := by
  unfold execRelease
  split
  · split
    · simp
    · split <;> simp
  · simp

theorem execReleaseAll_answers (x : Extent) : AnswersNext s (execReleaseAll x s) := by
  cases x <;> simp [execReleaseAll]

theorem execEnable_answers : AnswersNext s (execEnable s) := by
  unfold execEnable
  split
  · split
    · simp
    · split <;> simp
  · simp

theorem execDisable_answers : AnswersNext s (execDisable s) := by
  unfold execDisable
  split
  · split
    · simp
    split
    · simp
    · split <;> simp
  · simp

theorem execPop_answers : AnswersNext s (execPop s) := by
  unfold execPop
  split
  · split <;> simp
  · simp

theorem execFlush_answers : AnswersNext s (execFlush s) := by
  unfold execFlush
  split <;> simp

theorem execReadAcc_answers : AnswersNext s (execReadAcc s) := by
  unfold execReadAcc
  split
  · simp
  · next h =>
    obtain ⟨-, rest, -, rfl⟩ := takeAccCommand_eq_some.mp h
    split <;> simp

theorem execWriteAcc_answers : AnswersNext s (execWriteAcc s) := by
  unfold execWriteAcc
  split
  · simp
  · next h =>
    obtain ⟨-, rest, -, rfl⟩ := takeAccCommand_eq_some.mp h
    split <;> simp

theorem execRestart_answers (x : RestartExtent) : AnswersNext s (execRestart x s) := by
  cases x <;> simp [execRestart]

theorem execEvaluation_answers (x : Extent) : AnswersNext s (execEvaluation x s) := by
  cases x <;> simp [execEvaluation]

theorem execCaptureStep_answers : AnswersNext s (execCaptureStep s) := by
  unfold execCaptureStep
  split <;> simp [applyCapture]

theorem execQualificationExpiryTaken_answers : AnswersNext s (execQualificationExpiryTaken s) := by
  unfold execQualificationExpiryTaken
  split <;> simp

theorem execShapingExpiryTaken_answers : AnswersNext s (execShapingExpiryTaken s) := by
  unfold execShapingExpiryTaken
  split <;> simp

theorem execTickBy_answers (x : TickExtent) : AnswersNext s (execTickBy x s) := by
  cases x <;> simp [execTickBy]

theorem execArrival_answers : AnswersNext s (execArrival s) := by
  unfold execArrival
  split <;> simp

theorem execArrivalOutcome_answers : AnswersNext s (execArrivalOutcome s) := by
  unfold execArrivalOutcome
  split <;> simp

theorem execFrameStart_answers : AnswersNext s (execFrameStart s) := by
  unfold execFrameStart
  split
  · simp
  · split <;> simp

theorem execFrameEnd_answers : AnswersNext s (execFrameEnd s) := by
  unfold execFrameEnd
  split
  · simp
  · split <;> simp

theorem execSclkRisingEdge_answers (sdat : Bool) : AnswersNext s (execSclkRisingEdge sdat s) := by
  unfold execSclkRisingEdge
  split <;> simp

theorem execRecordSubmission_answers (who : Submitter) : AnswersNext s (execRecordSubmission who s) := by
  unfold execRecordSubmission
  split <;> simp

theorem execShutoffAssert_answers : AnswersNext s (execShutoffAssert s) := by
  unfold execShutoffAssert
  split
  · simp
  · split <;> simp

/-- No command is refused or ends in a fault, and none reaches the queue of commands. -/
theorem exec_answers (c : Instr) : AnswersNext s (exec c s) := by
  cases c with
  | readEntry => exact execReadEntry_answers s
  | writeEntry => exact execWriteEntry_answers s
  | arm => exact execArm_answers s
  | disarm => exact execDisarm_answers s
  | release => exact execRelease_answers s
  | releaseAll x => exact execReleaseAll_answers s x
  | readChannel => exact answers_ite (serveReadChannel_pending s)
  | writeChannel => exact answers_ite (serveWriteChannel_pending s)
  | enable => exact execEnable_answers s
  | disable => exact execDisable_answers s
  | readLine => exact answers_ite (serveReadLine_pending s)
  | writeLine => exact answers_ite (serveWriteLine_pending s)
  | silence => exact answers_ite (serveSilence_pending s)
  | override => exact answers_ite (serveOverride_pending s)
  | resume => exact answers_ite (serveResume_pending s)
  | pop => exact execPop_answers s
  | flush => exact execFlush_answers s
  | readAcc => exact execReadAcc_answers s
  | writeAcc => exact execWriteAcc_answers s
  | clearPortCounts => exact answers_ite rfl
  | restart x => exact execRestart_answers s x
  | badOpcode op | cmdOpWriteLost op | commandTaken op => exact answers_hostWrite (writeCmdOp_pending op)
  | evaluation x => exact execEvaluation_answers s x
  | captureStep => exact execCaptureStep_answers s
  | qualificationTimerExpiry n | shapingTimerExpiry n => exact answers_ite (bankTick_pending s)
  | qualificationExpiryTaken => exact execQualificationExpiryTaken_answers s
  | shapingExpiryTaken => exact execShapingExpiryTaken_answers s
  | tickBy x => exact execTickBy_answers s x
  | freshnessExpiry c => exact answers_ite (by rw [chooseWork_pending, channelTick_pending])
  | arrival => exact execArrival_answers s
  | arrivalOutcome => exact execArrivalOutcome_answers s
  | frameStart => exact execFrameStart_answers s
  | frameEnd => exact execFrameEnd_answers s
  | injTagWrite v => exact answers_hostWrite (writeInjTag_pending v)
  | injValueLowWrite v | injValueHighWrite v | tbdivLowWrite v | tbdivHighWrite v | intFlagsClear v | intMaskWrite v =>
    exact answers_hostWrite fun _ => rfl
  | oeChange v | portEnChange v => exact answers_hostWrite (writeControl_pending v)
  | watermarkWrite v => exact answers_hostWrite (writeWatermark_pending v)
  | headLatchLoad | timestampLatchLoad | bitmapLatchLoad b => exact answers_hostRead fun _ => rfl
  | registerWrite a v => exact answers_hostWrite (writeWindow_pending a v)
  | recordSubmission who => exact execRecordSubmission_answers s who
  | shutoffAssert => exact execShutoffAssert_answers s
  | shutoffRelease => exact answers_ite (takeLineCommand_pending s)
  | powerOnReset => exact answers_next.mpr rfl
  | powerOnResetEnd => exact answers_ite rfl
  | sclkRisingEdge sdat => exact execSclkRisingEdge_answers s sdat

end

/-- Settles O3: by what each command does, one by one (`exec_answers`). -/
theorem everyCommandAnswersNext : Obligations.EveryCommandAnswersNext :=
  fun c s => exec_answers s c

end Sys2Proof.Answers
end
